-- ==== Sys2Proof/Word.lean ====
section
/-! DEFINITION. The one vector type of the model: a list of bits, bit 0 first. -/

namespace Sys2Proof

/-- A bit vector of the spec (00_scope.md R13), least significant bit first. Bit `j` of a serial word
or of a deserialized group is the value at transition slot `j`, so the head of the list is the earliest
bit on the wire, and `a ++ b` of the spec (`b` in the low bits) is the list `b ++ a`. The width is the
length: every width of this hardware is a construction parameter (00_scope.md R8, R9). -/
abbrev Bits := List Bool

end Sys2Proof
end

