-- ==== Sys2Proof/Config.lean ====
section
/-! DEFINITION. What is fixed when an instance is built (construction parameters, `PhySettings`,
construction errors), and the free values: constants with no body for what the spec leaves open. -/

namespace Sys2Proof

/-- An exact rational as a numerator over a denominator (40_construction.md R101 asks for exact
rationals); a positive rational has both positive (`ratioPositive`). -/
structure Ratio where
  num : Nat
  den : Nat
deriving DecidableEq, Repr

/-- A memory family tag (00_scope.md R8). The source names only `"DDR3"`; any other tag is a number. -/
inductive Family where
  | ddr3
  | other (tag : Nat)
deriving DecidableEq, Repr

/-- One entry `(f, cl, cwl)` of a family's table (40_construction.md R100). -/
structure SpeedBin where
  f : Ratio
  cl : Int
  cwl : Int
deriving DecidableEq, Repr

/-- The construction parameters of 00_scope.md R8 and R9. `none` in a pattern or in
`dqsSysLatency` is the default that R9 gives it. -/
structure Params where
  /-- `FAMILY` -/
  family : Family
  /-- `N`, the phase count. DESIGN CHOICE (log entry 24): a natural number; a negative `N` cannot be given. -/
  phases : Nat
  /-- `F_SYS` -/
  fSys : Ratio
  /-- `F_IO_REF`, read by no rule -/
  fIoRef : Ratio
  /-- `ADDRBITS` -/
  addrBits : Nat
  /-- `BANKBITS` -/
  bankBits : Nat
  /-- `NRANKS` -/
  nRanks : Nat
  /-- `DATABITS` -/
  dataBits : Nat
  /-- `HAS_ODELAY` -/
  hasOdelay : Bool
  /-- `CL_CWL_TABLE`; a legal one holds the attested row of 40_construction.md R110 (`tableLegal`) -/
  clCwlTable : List (Family × List SpeedBin)
  /-- `SER_DEPTH` -/
  serDepth : Nat
  /-- `DES_DEPTH` -/
  desDepth : Nat
  /-- `BITSLIP_DEPTH`, counting the window register -/
  bitslipDepth : Nat
  /-- `TAP_BITS`; its default 5 is PRESUMED (the spec marks it as general knowledge); that 0 is legal is a
  DESIGN CHOICE (log entry 23) -/
  tapBits : Nat := 5
  /-- `TAP_BASE` -/
  tapBase : Nat
  /-- `HAS_WLEVEL` -/
  hasWlevel : Bool
  /-- `HAS_CS` -/
  hasCs : Bool
  /-- `HAS_RESET` -/
  hasReset : Bool
  /-- `DQS_PATTERN` -/
  dqsPattern : Option Bits := none
  /-- `WLEVEL_PATTERN` -/
  wlevelPattern : Option Bits := none
  /-- `DQS_SYS_LATENCY`. DESIGN CHOICE (log entry 24): a natural number; a negative value cannot be given. -/
  dqsSysLatency : Option Nat := none
  /-- The pairs for which `PHASE_OK` is false; its default is PRESUMED (general knowledge in R9). -/
  phaseBad : List (Family × Nat) := [(.ddr3, 2)]
deriving DecidableEq, Repr

/-- `PhySettings`, the constants that `BUILD_SETTINGS` returns (40_construction.md R108 step 9). -/
structure PhySettings where
  family : Family
  dfiDatabits : Nat
  nRanks : Nat
  nPhases : Nat
  rdcmdphase : Nat
  rdphase : Nat
  wrcmdphase : Nat
  wrphase : Nat
  cl : Nat
  cwl : Nat
  readLatency : Nat
  writeLatency : Nat
deriving DecidableEq, Repr

/-- The three construction errors with the value each records (60_exceptions.md R211 to R213). -/
inductive ConstructError where
  /-- Code 1. `period` is there when the family is known and no entry serves the period (R211). -/
  | unsupportedConfiguration (family : Family) (period : Option Ratio)
  /-- Code 2 (R212). -/
  | invalidLatencyConfiguration
  /-- Code 3. `family` is there when `N` is legal but `PHASE_OK` is false (R213). -/
  | unsupportedPhaseCount (n : Nat) (family : Option Family)
deriving DecidableEq, Repr

/-- What decoding depends on: the lane count and the two variant switches (30_encoding.md R80). -/
structure Variant where
  lanes : Nat
  hasOdelay : Bool
  hasWlevel : Bool
deriving DecidableEq, Repr

/-- The places whose words are unspecified at power-on (70_reset_and_hazards.md R230): the window
register and the delay lines, `ser_pipe` by group of pins. -/
inductive PowerOnPlace where
  | bsPrev
  | serA | serBa | serRas | serCas | serWe | serCke | serOdt | serCs | serReset
  | serDm
  | serDq
  | serDqs
  | desPipe
  | bsPipe
deriving DecidableEq, Repr

/-- The phase-bus fields a script line may leave unsaid (30_encoding.md R81). -/
inductive PhaseField where
  | address | bank | ras | cas | we | cke | odt | cs | reset | wrdata | wrdataMask
deriving DecidableEq, Repr

/-- FREE VALUE (93_implementation_defined.md U7): bit `slot` of the word of pin `pin` in entry `entry`
of a place at power-on of the instance with number `build`. Nothing constrains it. -/
opaque Config.powerOnBit (build : Nat) (place : PowerOnPlace) (entry pin slot : Nat) : Bool

/-- FREE VALUE: a bit of a phase-bus field in a tick for which the script says nothing. -/
opaque Config.idleField (build tick phase : Nat) (field : PhaseField) (bit : Nat) : Bool

/-- FREE VALUE (93_implementation_defined.md U8, U12): what a data pin carries in a slot of a tick for
which the script says nothing. -/
opaque Config.idlePin (build tick pin slot : Nat) : Bool

/-- FREE VALUE: the result of `RESOLVE` where 40_construction.md R101 states none, for an operand that is no
positive rational or a table that R100 or R110 excludes: a pair, or `none` for `UnsupportedConfiguration`. -/
opaque Config.unstatedResolve (table : List (Family × List SpeedBin)) (family : Family) (period : Ratio) :
    Option (Int × Int)

/-- FREE VALUE: `ceil(latency / 0)`; 00_scope.md R14 defines `ceil(a/b)` for positive `b` only. -/
opaque Config.ceilByZero (latency : Int) : Int

/-- FREE VALUE: `x mod 0`; 00_scope.md R14 defines `x mod m` for positive `m` only. -/
opaque Config.modByZero (x : Int) : Int

end Sys2Proof
end

