-- ==== Sys2Proof/Machine/Bits.lean ====
section
/-! DEFINITION. Bit fields, numbers and shift registers: the helpers every other file of the machine uses. -/

namespace Sys2Proof.Machine

/-- Bit `i` of a vector (00_scope.md R13); a bit beyond the width reads as 0. -/
def bitAt (v : Bits) (i : Nat) : Bool := v.getD i false

/-- The vector of width `n` whose bit `j` is `f j`. -/
def wordOf (n : Nat) (f : Nat → Bool) : Bits := (List.range n).map f

/-- What a port of width `n` carries of a vector: its bits `n-1 .. 0`. -/
def fitBits (n : Nat) (v : Bits) : Bits := wordOf n (bitAt v)

/-- The low `n` bits of a number, bit 0 the least significant (00_scope.md R13). -/
def bitsOfNat (n w : Nat) : Bits := wordOf n w.testBit

/-- A vector written as a number (00_scope.md R13). -/
def natOfBits : Bits → Nat
  | [] => 0
  | b :: v => b.toNat + 2 * natOfBits v

/-- A delay line after one tick: the new entry is entry 0, every entry moves one place, the oldest
leaves (10_state.md R30, R32, R35 to R37). A line of length 0 stays empty. -/
def shiftIn {α : Type} (x : α) (line : List α) : List α := (x :: line).dropLast

/-- What leaves a delay line in a tick: its oldest entry, or the entering one when the line has
length 0 (10_state.md R35 to R37). -/
def shiftOut {α : Type} (x : α) (line : List α) : α := line.getLast?.getD x

/-- Apply `f` to the entries of the selected lanes only (44_delay_cal.md R172). -/
def pulseLanes (select : Bits) (f : Nat → Nat) (v : List Nat) : List Nat :=
  v.mapIdx fun lane x => if bitAt select lane then f x else x

/-- The positive rationals among the ratios (00_scope.md R8). -/
def ratioPositive (r : Ratio) : Bool := decide (0 < r.num) && decide (0 < r.den)

/-- `r` is the integer `k`, for a ratio with a positive denominator. -/
def ratioIs (r : Ratio) (k : Nat) : Bool := decide (r.num = k * r.den)

/-- `a < b` for ratios with positive denominators. -/
def ratioLt (a b : Ratio) : Bool := decide (a.num * b.den < b.num * a.den)

end Sys2Proof.Machine
end

