-- ==== Sys2Proof/Syntax.lean ====
section
/-! DEFINITION. The operations of the block, one constructor for each row of the opcode table. -/

namespace Sys2Proof

/-- The 35 operations of 30_encoding.md R73. An operand is an argument only where the encoding of
R71 gives it bits; the lane operand of a pulse is implicit (R75), and the operands of the construction
functions have no bits and stand in `State.args`. -/
inductive Instr where
  /-- `RESOLVE`, 40_construction.md R101. -/
  | resolve
  /-- `SYS_LATENCY`, 40_construction.md R105. -/
  | sysLatency
  /-- `PHASE_ASSIGN`, 40_construction.md R106. -/
  | phaseAssign
  /-- `BUILD_SETTINGS`, 40_construction.md R108. -/
  | buildSettings
  /-- `RDLY_RST`, 44_delay_cal.md R174. -/
  | rdlyRst
  /-- `RDLY_INC`, 44_delay_cal.md R175. -/
  | rdlyInc
  /-- `BS_RST`, 43_bitslip.md R163. -/
  | bsRst
  /-- `BS_INC`, 43_bitslip.md R164. -/
  | bsInc
  /-- `WDLY_RST`, 44_delay_cal.md R178. -/
  | wdlyRst
  /-- `WDLY_INC`, 44_delay_cal.md R179. -/
  | wdlyInc
  /-- `WLEVEL_STB`, 45_write_leveling.md R191. -/
  | wlevelStb
  /-- `WLEVEL_EN`, 45_write_leveling.md R190, with `WLEVEL_EN_WDATA`. -/
  | wlevelEn (wdata : Bool)
  /-- `SEL`, 44_delay_cal.md R173, with `SEL_WDATA`. -/
  | sel (wdata : Bits)
  /-- `CAL_NOP`, 30_encoding.md R79. -/
  | calNop
  /-- `WREN`, 42_flow_control.md R140. -/
  | wren
  /-- `RDEN`, 42_flow_control.md R150. -/
  | rden
  /-- `SER_CMD`, 41_serdes.md R121. -/
  | serCmd
  /-- `SER_DQ`, 41_serdes.md R122. -/
  | serDq
  /-- `SER_DM`, 41_serdes.md R123. -/
  | serDm
  /-- `SER_DQS`, 41_serdes.md R124. -/
  | serDqs
  /-- `TRISTATE`, 41_serdes.md R126. -/
  | tristate
  /-- `SER_PIPE`, 41_serdes.md R127. -/
  | serPipe
  /-- `DES_DQ`, 41_serdes.md R129. -/
  | desDq
  /-- `RD_ASSEMBLE`, 41_serdes.md R130. -/
  | rdAssemble
  /-- `WR_TRACK`, 42_flow_control.md R141. -/
  | wrTrack
  /-- `OE`, 42_flow_control.md R142. -/
  | oe
  /-- `OE_DQS`, 42_flow_control.md R143. -/
  | oeDqs
  /-- `DQS_PRE`, 42_flow_control.md R144. -/
  | dqsPre
  /-- `DQS_POST`, 42_flow_control.md R145. -/
  | dqsPost
  /-- `RD_TRACK`, 42_flow_control.md R151. -/
  | rdTrack
  /-- `RD_VALID`, 42_flow_control.md R151. -/
  | rdValid
  /-- `BS_ALIGN`, 43_bitslip.md R161. -/
  | bsAlign
  /-- `RD_LANE_SELECT`, 44_delay_cal.md R182. -/
  | rdLaneSelect
  /-- `RD_WLEVEL_EN`, 44_delay_cal.md R182. -/
  | rdWlevelEn
  /-- `RD_TAP_BASE`, 44_delay_cal.md R182. -/
  | rdTapBase
deriving DecidableEq, Repr

end Sys2Proof
end

