-- ==== Sys2Proof/Decode.lean ====
section
/-! DEFINITION. Decoding and encoding of the five formats (30_encoding.md R70 to R80, R83). -/

namespace Sys2Proof

open Sys2Proof.Machine (bitAt wordOf bitsOfNat)

/-- Why a word is refused (60_exceptions.md R226). -/
inductive DecodeError where
  /-- A bit of `CTL` whose operation is absent in this variant (U3, R77(a), R77(b)). -/
  | absentOperation
  /-- The reset and the increment bit of one resource (U4, R77(c)). -/
  | resetWithIncrement
  /-- A register number that names no present register (U6, R61). -/
  | absentRegister
deriving DecidableEq, Repr

/-- One word of one of the formats of 30_encoding.md R70. The format is not in the bits: it is the
input the word arrives on. -/
inductive Encoded where
  /-- `CONSTRUCT`: the selector `fn`. -/
  | fn (w : BitVec 2)
  /-- `CAL`: the control word `CTL`, `10 + LANES` bits. -/
  | ctl (w : Bits)
  /-- `FLOW`: bit 0 `WREN`, bit 1 `RDEN`. -/
  | flow (w : BitVec 2)
  /-- `TICK`: no bits, selected in every tick. -/
  | everyTick
  /-- `BUSRD`: a register number. -/
  | reg (w : BitVec 4)
deriving DecidableEq, Repr

/-- `CONSTRUCT`: the function that the selector names (30_encoding.md R83). -/
def decodeFn (w : BitVec 2) : Instr :=
  if w = 0#2 then .resolve
  else if w = 1#2 then .sysLatency
  else if w = 2#2 then .phaseAssign
  else .buildSettings

/-- The reserved and refused control words of 30_encoding.md R77(a) to (c). -/
def ctlRefusal (v : Variant) (w : Bits) : Option DecodeError :=
  if v.hasOdelay = false ∧ (bitAt w 4 = true ∨ bitAt w 5 = true) then some .absentOperation
  else if v.hasWlevel = false ∧ (bitAt w 6 = true ∨ bitAt w 7 = true ∨ bitAt w 8 = true) then
    some .absentOperation
  else if (bitAt w 0 = true ∧ bitAt w 1 = true) ∨ (bitAt w 2 = true ∧ bitAt w 3 = true)
      ∨ (bitAt w 4 = true ∧ bitAt w 5 = true) then
    some .resetWithIncrement
  else none

/-- `SEL_WDATA`, bits `10+LANES-1 .. 10` of the control word (30_encoding.md R71). -/
def selWdata (v : Variant) (w : Bits) : Bits := wordOf v.lanes fun l => bitAt w (10 + l)

/-- One operation for each set operation bit of a control word, in the order of its bits
(30_encoding.md R70, R71, R77(d), R77(e)). -/
def ctlOps (v : Variant) (w : Bits) : List Instr :=
  (if bitAt w 0 then [Instr.rdlyRst] else []) ++
  (if bitAt w 1 then [Instr.rdlyInc] else []) ++
  (if bitAt w 2 then [Instr.bsRst] else []) ++
  (if bitAt w 3 then [Instr.bsInc] else []) ++
  (if bitAt w 4 then [Instr.wdlyRst] else []) ++
  (if bitAt w 5 then [Instr.wdlyInc] else []) ++
  (if bitAt w 6 then [Instr.wlevelStb] else []) ++
  (if bitAt w 7 then [Instr.wlevelEn (bitAt w 8)] else []) ++
  (if bitAt w 9 then [Instr.sel (selWdata v w)] else [])

/-- `CAL_NOP` is the word with no operation bit set (30_encoding.md R79). -/
def orCalNop : List Instr → List Instr
  | [] => [.calNop]
  | i :: rest => i :: rest

/-- `CAL`: the operations of a control word, or why it is refused. -/
def decodeCtl (v : Variant) (w : Bits) : Except DecodeError (List Instr) :=
  match ctlRefusal v w with
  | some e => .error e
  | none => .ok (orCalNop (ctlOps v w))

/-- `FLOW`: one operation for each set bit (30_encoding.md R72). -/
def decodeFlow (w : BitVec 2) : List Instr :=
  (if w.getLsbD 0 then [Instr.wren] else []) ++ (if w.getLsbD 1 then [Instr.rden] else [])

/-- `TICK`: the operations of every tick, in the dependency order of 46_system_tick.md R202. -/
def tickOrder : List Instr :=
  [.oe, .oeDqs, .dqsPre, .dqsPost, .rdValid,
   .serCmd, .serDq, .serDm, .serDqs, .tristate, .serPipe,
   .desDq, .bsAlign, .rdAssemble,
   .wrTrack, .rdTrack]

/-- The registers present in a variant (20_memory.md R51, 30_encoding.md R78, R80). -/
def registerPresent (v : Variant) (n : Nat) : Bool :=
  if n = 5 ∨ n = 6 then v.hasOdelay
  else if n = 7 ∨ n = 8 then v.hasWlevel
  else decide (n ≤ 9)

/-- `BUSRD`: a read of registers 0, 7 and 9 is an operation; a read of a present pulse register is no
operation and returns 0 (44_delay_cal.md R182); an absent register is refused (20_memory.md R61). -/
def decodeReg (v : Variant) (w : BitVec 4) : Except DecodeError (List Instr) :=
  if registerPresent v w.toNat = false then .error .absentRegister
  else if w = 0#4 then .ok [.rdLaneSelect]
  else if w = 7#4 then .ok [.rdWlevelEn]
  else if w = 9#4 then .ok [.rdTapBase]
  else .ok []

/-- The operations that a word selects, or the name under which it is refused. -/
def decode (v : Variant) : Encoded → Except DecodeError (List Instr)
  | .fn w => .ok [decodeFn w]
  | .ctl w => decodeCtl v w
  | .flow w => .ok (decodeFlow w)
  | .everyTick => .ok tickOrder
  | .reg w => decodeReg v w

/-- The bits of the control word that an operation sets (30_encoding.md R71); operations of the other
formats set none. -/
def ctlBit : Instr → Nat → Bool
  | .rdlyRst, j => j == 0
  | .rdlyInc, j => j == 1
  | .bsRst, j => j == 2
  | .bsInc, j => j == 3
  | .wdlyRst, j => j == 4
  | .wdlyInc, j => j == 5
  | .wlevelStb, j => j == 6
  | .wlevelEn b, j => j == 7 || (j == 8 && b)
  | .sel m, j => j == 9 || (decide (10 ≤ j) && bitAt m (j - 10))
  | .calNop, _ | .resolve, _ | .sysLatency, _ | .phaseAssign, _ | .buildSettings, _ => false
  | .wren, _ | .rden, _ | .serCmd, _ | .serDq, _ | .serDm, _ | .serDqs, _ | .tristate, _ => false
  | .serPipe, _ | .desDq, _ | .rdAssemble, _ | .wrTrack, _ | .oe, _ | .oeDqs, _ | .dqsPre, _ => false
  | .dqsPost, _ | .rdTrack, _ | .rdValid, _ | .bsAlign, _ => false
  | .rdLaneSelect, _ | .rdWlevelEn, _ | .rdTapBase, _ => false

/-- The control word of several operations given together: the union of their bits (30_encoding.md
R70, R77(e)). DESIGN CHOICE (log entry 26): where one operand field is given twice (`sel` with two masks,
`wl.en` with two bits, which the grammar of R81 allows), the field is the union of the operands. -/
def encodeCtl (v : Variant) (ops : List Instr) : Bits :=
  wordOf (10 + v.lanes) fun j => ops.any fun i => ctlBit i j

/-- The word of an operation, from the tables of 30_encoding.md R71, R72, R78 and R83. -/
def encode (v : Variant) : Instr → Encoded
  | .resolve => .fn 0#2
  | .sysLatency => .fn 1#2
  | .phaseAssign => .fn 2#2
  | .buildSettings => .fn 3#2
  | .rdlyRst => .ctl (encodeCtl v [.rdlyRst])
  | .rdlyInc => .ctl (encodeCtl v [.rdlyInc])
  | .bsRst => .ctl (encodeCtl v [.bsRst])
  | .bsInc => .ctl (encodeCtl v [.bsInc])
  | .wdlyRst => .ctl (encodeCtl v [.wdlyRst])
  | .wdlyInc => .ctl (encodeCtl v [.wdlyInc])
  | .wlevelStb => .ctl (encodeCtl v [.wlevelStb])
  | .wlevelEn b => .ctl (encodeCtl v [.wlevelEn b])
  | .sel m => .ctl (encodeCtl v [.sel m])
  | .calNop => .ctl (encodeCtl v [.calNop])
  | .wren => .flow 1#2
  | .rden => .flow 2#2
  | .serCmd | .serDq | .serDm | .serDqs | .tristate | .serPipe | .desDq | .rdAssemble
  | .wrTrack | .oe | .oeDqs | .dqsPre | .dqsPost | .rdTrack | .rdValid | .bsAlign => .everyTick
  | .rdLaneSelect => .reg 0#4
  | .rdWlevelEn => .reg 7#4
  | .rdTapBase => .reg 9#4

/-- The operations that the word of an operation selects: all of `TICK` share the empty encoding
(30_encoding.md R83); every other word selects its operation alone. -/
def selectedWith (i : Instr) : List Instr := if i ∈ tickOrder then tickOrder else [i]

/-- The control word that a bus write of `value` to a register becomes (30_encoding.md R78); register 9
is read-only, so a write to it sets no bit. -/
def busWriteCtl (v : Variant) (w : BitVec 4) (value : Nat) : Except DecodeError Bits :=
  if registerPresent v w.toNat = false then .error .absentRegister
  else .ok (encodeCtl v (
    if w = 0#4 then [.sel (bitsOfNat v.lanes value)]
    else if w = 1#4 then [.rdlyRst]
    else if w = 2#4 then [.rdlyInc]
    else if w = 3#4 then [.bsRst]
    else if w = 4#4 then [.bsInc]
    else if w = 5#4 then [.wdlyRst]
    else if w = 6#4 then [.wdlyInc]
    else if w = 7#4 then [.wlevelEn (value.testBit 0)]
    else if w = 8#4 then [.wlevelStb]
    else []))

/-- The variant of the instance that `State.reset` holds: two lanes, both optional parts present. -/
def resetVariant : Variant := { lanes := 2, hasOdelay := true, hasWlevel := true }

/-- DESIGN CHOICE: the format of a bare word of the opcode table. The formats of 30_encoding.md R70 are
tried in their order: up to 9 bits a value of 0 to 3 is a `CONSTRUCT` selector; then a word that selects exactly one
operation as a control word is that; then a value of 4 to 15 is a register number. A word of 10 or more
bits is a control word. No bits at all is the empty encoding of `TICK` (log entry 11). A control word has the
`10 + LANES` bits of the variant `v` (30_encoding.md R71, R83); bits of `w` above them are dropped. -/
def tableWord (v : Variant) (nbits w : Nat) : Encoded :=
  let ctl := bitsOfNat (10 + v.lanes) w
  if nbits = 0 then .everyTick
  else if nbits < 10 then
    if w < 4 then .fn (BitVec.ofNat 2 w)
    else match decodeCtl v ctl with
      | .ok [_] => .ctl ctl
      | _ => if w < 16 then .reg (BitVec.ofNat 4 w) else .ctl ctl
  else .ctl ctl

/-- The instruction that the decoder reads from a word of the opcode table; none where the word is
refused or selects several operations or none. DESIGN CHOICE (log entry 11): no instance is given here, so
the word is read in the variant of the reset instance (`LANES = 2`, both optional parts present). -/
def decodeTableWord (nbits w : Nat) : Option Instr :=
  match decode resetVariant (tableWord resetVariant nbits w) with
  | .ok [i] => some i
  | _ => none

end Sys2Proof
end

