-- ==== Sys2Proof/Machine/Latency.lean ====
section
/-! DEFINITION. The Timing Resolver and the Latency Planner as pure functions (40_construction.md),
and the parameters derived from others (00_scope.md R9, R10). -/

namespace Sys2Proof.Machine

/-- `LANES = DATABITS / 8` (00_scope.md R8). -/
def lanesOf (p : Params) : Nat := p.dataBits / 8

/-- What decoding depends on in an instance (30_encoding.md R80). -/
def variantOf (p : Params) : Variant :=
  { lanes := lanesOf p, hasOdelay := p.hasOdelay, hasWlevel := p.hasWlevel }

/-- `DQS_PATTERN`; by default bit `j` is 1 when `j` is even (00_scope.md R9, 41_serdes.md R125). -/
def dqsPatternOf (p : Params) : Bits :=
  p.dqsPattern.getD (wordOf (2 * p.phases) fun j => j % 2 == 0)

/-- `WLEVEL_PATTERN`; by default bit 0 is 1 and all others 0 (00_scope.md R9, 45_write_leveling.md R192). -/
def wlevelPatternOf (p : Params) : Bits :=
  p.wlevelPattern.getD (wordOf (2 * p.phases) fun j => j == 0)

/-- `DQS_SYS_LATENCY`; by default `write_latency` (40_construction.md R111). -/
def dqsSysLatencyOf (p : Params) (writeLatency : Nat) : Nat :=
  p.dqsSysLatency.getD writeLatency

/-- `PHASE_OK(FAMILY, N)` (00_scope.md R9). -/
def phaseOk (p : Params) : Bool := !p.phaseBad.contains (p.family, p.phases)

/-- The test `clock_period * f >= 2` of 40_construction.md R101, exact. -/
def binServes (period : Ratio) (b : SpeedBin) : Bool :=
  decide (2 * (period.den * b.f.den) ≤ period.num * b.f.num)

/-- The table of a family, if the family is a key (40_construction.md R100). -/
def binsOf (table : List (Family × List SpeedBin)) (family : Family) : Option (List SpeedBin) :=
  (table.find? fun e => e.1 == family).map Prod.snd

/-- `RESOLVE` (40_construction.md R101): the first entry, in ascending `f`, that serves the period. -/
def resolve (table : List (Family × List SpeedBin)) (family : Family) (period : Ratio) :
    Except ConstructError (Int × Int) :=
  match binsOf table family with
  | none => .error (.unsupportedConfiguration family none)
  | some bins =>
    match bins.find? (binServes period) with
    | some b => .ok (b.cl, b.cwl)
    | none => .error (.unsupportedConfiguration family (some period))

/-- `SYS_LATENCY(latency) = ceil(latency / N)` (40_construction.md R105, 00_scope.md R14); a free value
for `N = 0`, for which R14 defines no `ceil`. -/
def sysLatency (n : Nat) (latency : Int) : Int :=
  if n = 0 then Config.ceilByZero latency else -((-latency) / (n : Int))

/-- The `mod` of 00_scope.md R14, never negative; a free value for modulus 0. -/
def modN (n : Nat) (x : Int) : Int := if n = 0 then Config.modByZero x else x % (n : Int)

/-- `PHASE_ASSIGN(sys, latency)`, the pair `(cmd_phase, data_phase)` (40_construction.md R106). -/
def phaseAssign (n : Nat) (sys latency : Int) : Int × Int :=
  let dataPhase := sys * (n : Int) - latency
  (modN n (dataPhase - 1), dataPhase)

/-- The I/O clock period `1 / (N * F_SYS)` (40_construction.md R102). -/
def ioPeriod (n : Nat) (fSys : Ratio) : Ratio := { num := fSys.den, den := n * fSys.num }

/-- `read_latency` of 40_construction.md R107. -/
def readLatencyOf (p : Params) (clSys : Int) : Int :=
  (p.serDepth : Int) + clSys + (p.desDepth : Int) + (p.bitslipDepth : Int) - 1

/-- A phase number in `[0, N)` (00_scope.md R10). -/
def phaseInRange (n : Nat) (x : Int) : Bool := decide (0 ≤ x) && decide (x < (n : Int))

/-- Steps 5 to 9 of 40_construction.md R108, for a selected `(cl, cwl)`. -/
def planLatencies (p : Params) (cl cwl : Int) : Except ConstructError PhySettings :=
  let n := p.phases
  let clSys := sysLatency n cl
  let cwlSys := sysLatency n cwl
  let rd := phaseAssign n clSys cl
  let wr := phaseAssign n cwlSys cwl
  let readLatency := readLatencyOf p clSys
  let center := dqsSysLatencyOf p cwlSys.toNat
  if cl < 1 ∨ cwl < 1 ∨ readLatency ≤ 1 ∨ cwlSys ≤ 0
      ∨ phaseInRange n rd.1 = false ∨ phaseInRange n rd.2 = false
      ∨ phaseInRange n wr.1 = false ∨ phaseInRange n wr.2 = false
      ∨ center < 1 ∨ cwlSys < (center : Int) then
    .error .invalidLatencyConfiguration
  else
    .ok { family := p.family, dfiDatabits := 2 * p.dataBits, nRanks := p.nRanks, nPhases := n,
          rdcmdphase := rd.1.toNat, rdphase := rd.2.toNat,
          wrcmdphase := wr.1.toNat, wrphase := wr.2.toNat,
          cl := cl.toNat, cwl := cwl.toNat,
          readLatency := readLatency.toNat, writeLatency := cwlSys.toNat }

/-- `BUILD_SETTINGS` (40_construction.md R108): the first failing step in the order of R108 and
60_exceptions.md R215 is the error. -/
def buildSettings (p : Params) : Except ConstructError PhySettings :=
  if p.phases ≠ 2 ∧ p.phases ≠ 4 then .error (.unsupportedPhaseCount p.phases none)
  else if (binsOf p.clCwlTable p.family).isNone then .error (.unsupportedConfiguration p.family none)
  else if phaseOk p = false then .error (.unsupportedPhaseCount p.phases (some p.family))
  else
    match resolve p.clCwlTable p.family (ioPeriod p.phases p.fSys) with
    | .error e => .error e
    | .ok (cl, cwl) => planLatencies p cl cwl

/-- The code of a construction error (60_exceptions.md R211 to R213). -/
def errorCode : ConstructError → Nat
  | .unsupportedConfiguration _ _ => 1
  | .invalidLatencyConfiguration => 2
  | .unsupportedPhaseCount _ _ => 3

/-- A list of entries in strictly ascending `f` (40_construction.md R100). -/
def binsAscending : List SpeedBin → Bool
  | [] => true
  | [b] => ratioPositive b.f
  | b :: c :: rest => ratioPositive b.f && ratioLt b.f c.f && binsAscending (c :: rest)

/-- The one attested row `("DDR3", 800e6, 6, 5)` (40_construction.md R100). -/
def isAttestedBin (b : SpeedBin) : Bool :=
  ratioIs b.f 800000000 && decide (b.cl = 6) && decide (b.cwl = 5)

/-- The table holds the attested row, so it satisfies the scenario "which any table must satisfy"
(40_construction.md R110, 93_implementation_defined.md U15). -/
def holdsAttestedRow (table : List (Family × List SpeedBin)) : Bool :=
  match binsOf table .ddr3 with
  | none => false
  | some bins => bins.any isAttestedBin

/-- A legal `CL_CWL_TABLE`: every list strictly ascending (40_construction.md R100), the attested row
among them (R110, U15). -/
def tableLegal (table : List (Family × List SpeedBin)) : Bool :=
  (table.all fun e => binsAscending e.2) && holdsAttestedRow table

/-- `RESOLVE` called on its own, on any operands (40_construction.md R101). An unknown family raises the
error whatever the other operands are. DESIGN CHOICE (log entry 25): for a clock period that is no positive
rational, or a table that R100 or R110 excludes, no rule states the result, and it is a free value. -/
def resolveOperands (table : List (Family × List SpeedBin)) (family : Family) (period : Ratio) :
    Except ConstructError (Int × Int) :=
  if (binsOf table family).isNone || (ratioPositive period && tableLegal table) then
    resolve table family period
  else
    match Config.unstatedResolve table family period with
    | some r => .ok r
    | none => .error (.unsupportedConfiguration family (some period))

/-- An explicit pattern constant has the width of a serial word (60_exceptions.md R214). -/
def patternWidthOk (p : Params) (v : Option Bits) : Bool :=
  match v with
  | none => true
  | some w => w.length == 2 * p.phases

/-- The preconditions of construction (60_exceptions.md R214, 00_scope.md R8 and R9, 40_construction.md
R110, decision D35); log entry 10 says which of them are DEDUCED. DESIGN CHOICE (log entry 23): there is
no condition on `TAP_BITS` of its own, so 0 is legal, and then every tap value is 0. -/
def paramsLegal (p : Params) : Bool :=
  decide (0 < p.dataBits) && p.dataBits % 8 == 0 &&
  decide (0 < p.addrBits) && decide (0 < p.bankBits) && decide (0 < p.nRanks) &&
  ratioPositive p.fSys && ratioPositive p.fIoRef &&
  decide (p.tapBase < 2 ^ p.tapBits) && decide (1 ≤ p.bitslipDepth) &&
  patternWidthOk p p.dqsPattern && patternWidthOk p p.wlevelPattern &&
  tableLegal p.clCwlTable

end Sys2Proof.Machine
end

