-- ==== Sys2Proof/Machine/Ports.lean ====
section
/-! DEFINITION. The plain-data types of the block's inputs, outputs, wires and storage. -/

namespace Sys2Proof.Machine

/-- The upstream-to-block fields of one phase (20_memory.md R52). A field wider than its port shows
its low bits, a narrower one reads as 0 above its width. -/
structure PhaseIn where
  address : Bits
  bank : Bits
  ras : Bool
  cas : Bool
  we : Bool
  cke : Bits
  odt : Bits
  cs : Bits
  reset : Bool
  wrdata : Bits
  wrdataMask : Bits
  wrdataEn : Bool
  rddataEn : Bool
deriving DecidableEq, Repr

/-- A phase on which upstream drives zeros. -/
def PhaseIn.zero : PhaseIn :=
  { address := [], bank := [], ras := false, cas := false, we := false, cke := [], odt := [], cs := [],
    reset := false, wrdata := [], wrdataMask := [], wrdataEn := false, rddataEn := false }

/-- The inputs of one tick (46_system_tick.md R200), and at most one bus read (R201). -/
structure TickInput where
  /-- The phases, phase 0 first. -/
  phases : List PhaseIn
  /-- `CTL`, `10 + LANES` bits. -/
  ctl : Bits
  /-- `pin_in` of every data pin, in slot order (20_memory.md R56). -/
  pinIn : List Bits
  /-- The register number of a bus read made in this tick (44_delay_cal.md R182). -/
  busRead : Option (BitVec 4)
deriving DecidableEq, Repr

/-- The operands of the construction functions: `RESOLVE(family, clock_period)`,
`SYS_LATENCY(latency)`, `PHASE_ASSIGN(sys, latency)` with `N`, and every parameter for `BUILD_SETTINGS`
(40_construction.md R101, R105, R106, R108). The table `RESOLVE` reads is that of `params`. -/
structure ConstructArgs where
  params : Params
  family : Family
  clockPeriod : Ratio
  n : Nat
  latency : Int
  sys : Int
deriving DecidableEq, Repr

/-- What one step is about: a tick with its inputs, or a call of a construction function. -/
inductive Stimulus where
  | construct (fn : BitVec 2) (args : ConstructArgs)
  | tick (input : TickInput)
deriving DecidableEq, Repr

/-- The serial words of the command and address pins, one list of pins for each group
(20_memory.md R54, 41_serdes.md R121). -/
structure CmdWords where
  a : List Bits
  ba : List Bits
  ras : List Bits
  cas : List Bits
  we : List Bits
  cke : List Bits
  odt : List Bits
  cs : List Bits
  reset : List Bits
deriving DecidableEq, Repr

/-- One `ser_pipe` entry of a bidirectional pin: its serial word and its output-enable bit
(10_state.md R35). -/
structure PinEntry where
  word : Bits
  en : Bool
deriving DecidableEq, Repr

/-- What enters the serializer delay line in one tick, for every output pin (10_state.md R35): words
for the pins that are always driven, words with an output enable for the data and strobe pins. -/
structure SerEntry where
  cmd : CmdWords
  dm : List Bits
  dq : List PinEntry
  dqs : List PinEntry
deriving DecidableEq, Repr

/-- A pin's output in one tick (20_memory.md R55). -/
inductive PadValue where
  | driven (w : Bits)
  | hiZ
deriving DecidableEq, Repr

/-- What every output pin presents to the environment in one tick (46_system_tick.md R201). -/
structure Pads where
  a : List PadValue
  ba : List PadValue
  ras : List PadValue
  cas : List PadValue
  we : List PadValue
  cke : List PadValue
  odt : List PadValue
  cs : List PadValue
  reset : List PadValue
  dq : List PadValue
  dm : List PadValue
  dqs : List PadValue
deriving DecidableEq, Repr

/-- The wires of one tick: values the rules compute and read inside a tick and the hardware does not
store (10_state.md R38, 41_serdes.md R120, R126, R129, 43_bitslip.md R161). -/
structure Signals where
  /-- `wren(t)` -/
  wren : Bool
  /-- `rden(t)` -/
  rden : Bool
  /-- A leveling strobe pulse given in leveling mode. -/
  strobe : Bool
  oe : Bool
  oeDqs : Bool
  dqsPre : Bool
  dqsPost : Bool
  /-- `w_pin(t)` of the command and address pins. -/
  cmd : CmdWords
  /-- `w_dq[i](t)` -/
  dq : List Bits
  /-- `w_dm[l](t)` -/
  dm : List Bits
  /-- `w_dqs(t)` -/
  dqs : Bits
  /-- `out_pin(t)` of every output pin. -/
  drive : SerEntry
  /-- `g_i(t)`, the deserialized groups. -/
  group : List Bits
  /-- `r_i(t)`, the aligned groups that reach the phase bus. -/
  aligned : List Bits
deriving DecidableEq, Repr

/-- No words. -/
def CmdWords.none : CmdWords :=
  { a := [], ba := [], ras := [], cas := [], we := [], cke := [], odt := [], cs := [], reset := [] }

/-- No pins. -/
def SerEntry.none : SerEntry := { cmd := CmdWords.none, dm := [], dq := [], dqs := [] }

/-- No pads. -/
def Pads.none : Pads :=
  { a := [], ba := [], ras := [], cas := [], we := [], cke := [], odt := [], cs := [], reset := [],
    dq := [], dm := [], dqs := [] }

/-- The wires before any operation of a tick has run. -/
def Signals.idle : Signals :=
  { wren := false, rden := false, strobe := false, oe := false, oeDqs := false, dqsPre := false,
    dqsPost := false, cmd := CmdWords.none, dq := [], dm := [], dqs := [], drive := SerEntry.none,
    group := [], aligned := [] }

/-- The outputs of the latest tick (46_system_tick.md R201) and the results of the construction
functions when they are called on their own (40_construction.md R101, R105, R106). -/
structure Outputs where
  pads : Pads
  /-- `rddata` of every phase, phase 0 first. -/
  rddata : List Bits
  /-- `rddata_valid` of every phase, phase 0 first. -/
  rddataValid : List Bool
  /-- The value of the bus read of this tick, as a number (it is zero-extended to the bus width). -/
  busValue : Option Nat
  /-- `(cl, cwl)` of `RESOLVE`. -/
  resolved : Option (Int × Int)
  /-- The result of `SYS_LATENCY`. -/
  sysLatency : Option Int
  /-- `(cmd_phase, data_phase)` of `PHASE_ASSIGN`. -/
  phases : Option (Int × Int)
deriving DecidableEq, Repr

/-- No output yet. -/
def Outputs.none : Outputs :=
  { pads := Pads.none, rddata := [], rddataValid := [], busValue := Option.none,
    resolved := Option.none, sysLatency := Option.none, phases := Option.none }

/-- A live instance: its constants and the four groups of state of 10_state.md R20. The delay lines
hold, for each depth, the entries of all pins together: every pin has the same depth. -/
structure Phy where
  /-- The construction parameters; constants (20_memory.md R68). -/
  params : Params
  /-- `PhySettings`; constants (00_scope.md R10). -/
  settings : PhySettings
  /-- `lane_select`, `LANES` bits (10_state.md R23). -/
  laneSelect : Bits
  /-- `in_tap[l]`, each below `2^TAP_BITS` (10_state.md R24). -/
  inTap : List Nat
  /-- `out_tap[l]`, each below `2^TAP_BITS`; empty without `HAS_ODELAY` (10_state.md R25). -/
  outTap : List Nat
  /-- `rot[l]`, each below `2N` (10_state.md R26). -/
  rot : List Nat
  /-- `wlevel_en`; false without `HAS_WLEVEL` (10_state.md R27). -/
  wlevelEn : Bool
  /-- `wr_sr`, position 0 first, `WL + 2` bits (10_state.md R30). -/
  wrSr : List Bool
  /-- `wr_tail` (10_state.md R31). -/
  wrTail : Bool
  /-- `rd_sr`, position 0 first, `RL - 1` bits (10_state.md R32). -/
  rdSr : List Bool
  /-- `bs_prev[i]`, `2N` bits for each data pin (10_state.md R34). -/
  bsPrev : List Bits
  /-- `ser_pipe`, `SER_DEPTH` entries, entry 0 the newest (10_state.md R35). -/
  serPipe : List SerEntry
  /-- `des_pipe`, `DES_DEPTH` entries, each a group for every data pin (10_state.md R36). -/
  desPipe : List (List Bits)
  /-- `bs_pipe`, `BITSLIP_DEPTH - 1` entries, each a group for every data pin (10_state.md R37). -/
  bsPipe : List (List Bits)
deriving DecidableEq, Repr

end Sys2Proof.Machine
end

