-- ==== Sys2Proof/Machine/PowerOn.lean ====
section
/-! DEFINITION. The state of an instance at the start of its tick 0 (70_reset_and_hazards.md R230). -/

namespace Sys2Proof.Machine

/-- An unspecified serial word at power-on: every bit a free value (93_implementation_defined.md U7). -/
def powerOnWord (build : Nat) (place : PowerOnPlace) (n entry pin : Nat) : Bits :=
  wordOf (2 * n) (Config.powerOnBit build place entry pin)

/-- Unspecified words for `count` pins. -/
def powerOnWords (build : Nat) (place : PowerOnPlace) (n entry count : Nat) : List Bits :=
  (List.range count).map (powerOnWord build place n entry)

/-- Bidirectional pins at power-on: unspecified words, every output-enable bit 0 (R230). -/
def powerOnPins (build : Nat) (place : PowerOnPlace) (n entry count : Nat) : List PinEntry :=
  (powerOnWords build place n entry count).map fun w => { word := w, en := false }

/-- How many pins an optional group has (20_memory.md R54). -/
def optionalPins (present : Bool) (count : Nat) : Nat := if present then count else 0

/-- Unspecified words on the command and address pins. -/
def powerOnCmd (build : Nat) (p : Params) (entry : Nat) : CmdWords :=
  let words place := powerOnWords build place p.phases entry
  { a := words .serA p.addrBits, ba := words .serBa p.bankBits,
    ras := words .serRas 1, cas := words .serCas 1, we := words .serWe 1,
    cke := words .serCke p.nRanks, odt := words .serOdt p.nRanks,
    cs := words .serCs (optionalPins p.hasCs p.nRanks),
    reset := words .serReset (optionalPins p.hasReset 1) }

/-- One `ser_pipe` entry at power-on. -/
def powerOnSerEntry (build : Nat) (p : Params) (entry : Nat) : SerEntry :=
  { cmd := powerOnCmd build p entry,
    dm := powerOnWords build .serDm p.phases entry (lanesOf p),
    dq := powerOnPins build .serDq p.phases entry p.dataBits,
    dqs := powerOnPins build .serDqs p.phases entry (lanesOf p) }

/-- The power-on state of 70_reset_and_hazards.md R230, of the instance with number `build`. -/
def powerOnPhy (build : Nat) (p : Params) (k : PhySettings) : Phy :=
  { params := p, settings := k,
    laneSelect := List.replicate (lanesOf p) false,
    inTap := List.replicate (lanesOf p) 0,
    outTap := List.replicate (if p.hasOdelay then lanesOf p else 0) 0,
    rot := List.replicate (lanesOf p) 0,
    wlevelEn := false,
    wrSr := List.replicate (k.writeLatency + 2) false,
    wrTail := false,
    rdSr := List.replicate (k.readLatency - 1) false,
    bsPrev := powerOnWords build .bsPrev p.phases 0 p.dataBits,
    serPipe := (List.range p.serDepth).map (powerOnSerEntry build p),
    desPipe := (List.range p.desDepth).map fun e => powerOnWords build .desPipe p.phases e p.dataBits,
    bsPipe := (List.range (p.bitslipDepth - 1)).map fun e =>
      powerOnWords build .bsPipe p.phases e p.dataBits }

/-- DESIGN CHOICE: the parameters of the instance that `State.reset` holds, those of program P1 of
95_test_vectors.md; `F_IO_REF`, `HAS_CS` and `HAS_RESET`, which P1 does not give, are the model's. -/
def referenceParams : Params :=
  { family := .ddr3, phases := 4, fSys := { num := 100000000, den := 1 },
    fIoRef := { num := 200000000, den := 1 },
    addrBits := 14, bankBits := 3, nRanks := 1, dataBits := 16, hasOdelay := true,
    clCwlTable := [(.ddr3, [{ f := { num := 800000000, den := 1 }, cl := 6, cwl := 5 }])],
    serDepth := 2, desDepth := 2, bitslipDepth := 3, tapBits := 5, tapBase := 12,
    hasWlevel := true, hasCs := true, hasReset := true }

/-- The `PhySettings` of the reference parameters, as program P1 of 95_test_vectors.md writes them out. -/
def referenceSettings : PhySettings :=
  { family := .ddr3, dfiDatabits := 32, nRanks := 1, nPhases := 4, rdcmdphase := 1, rdphase := 2,
    wrcmdphase := 2, wrphase := 3, cl := 6, cwl := 5, readLatency := 8, writeLatency := 2 }

/-- DESIGN CHOICE: operands of the construction functions where no bits of a word give them: the
reference parameters and the operands of the scenario of 40_construction.md R110. -/
def referenceArgs : ConstructArgs :=
  { params := referenceParams, family := .ddr3, clockPeriod := { num := 1, den := 400000000 },
    n := 4, latency := 6, sys := 2 }

end Sys2Proof.Machine
end

