-- ==== Sys2Proof/Machine/State.lean ====
section
/-! DEFINITION. The whole state of the model as plain data, its reset value, and the reasons a step can stop. -/

namespace Sys2Proof.Machine

/-- Why the machine stops with a fault. -/
inductive Fault where
  /-- Raised by every tick, control, flow and bus-read operation when construction has failed and no
  instance exists ("after an error no instance exists, there is no state, and no tick can be run",
  60_exceptions.md R210). Safe: nothing is claimed about a tick that cannot be run. -/
  | noInstance
deriving DecidableEq, Repr

/-- Why the model gives no meaning (60_exceptions.md R214, R226). -/
inductive Refusal where
  /-- Raised by `exec` for an operation that has no meaning yet. Safe. -/
  | notModelled (mnemonic : String)
  /-- Raised by a tick whose control word sets a bit whose operation is absent in this variant, and by
  that operation's meaning (30_encoding.md R77(a), R77(b), U3). Safe: the spec refuses the tick. -/
  | absentOperation
  /-- Raised by a tick whose control word has both the reset and the increment bit of one resource
  (30_encoding.md R77(c), U4). Safe: the spec refuses the tick. -/
  | resetWithIncrement
  /-- Raised by a bus read of a register that is not present, and by `RD_WLEVEL_EN` without the leveling
  controller (20_memory.md R61, U6). Safe: the spec refuses the access. -/
  | absentRegister
  /-- Raised by `BUILD_SETTINGS` on parameters outside the preconditions of construction
  (60_exceptions.md R214, U17; a table without the row that 40_construction.md R110 and U15 demand). Safe:
  the spec refuses the former and admits no such table. -/
  | illFormedParameters
deriving DecidableEq, Repr

/-- The result of construction: an instance, or the error value instead of one (60_exceptions.md R216). -/
inductive Block where
  | live (x : Phy)
  | failed (e : ConstructError)
deriving DecidableEq, Repr

/-- The state of the model: the block, the inputs and wires of the current tick, the outputs of the
latest one, and the stimuli still to come. -/
structure State where
  /-- One stimulus for each step to come; the model's own field for the inputs of 46_system_tick.md R200. -/
  script : List Stimulus
  /-- The inputs of the tick being evaluated. -/
  inp : TickInput
  /-- The operands of the construction function being evaluated. -/
  args : ConstructArgs
  /-- The wires of the tick being evaluated. -/
  sig : Signals
  /-- The outputs of the latest tick. -/
  out : Outputs
  /-- The tick index `t` (10_state.md R21); it only selects free values. -/
  tick : Nat
  /-- How many instances were constructed before; it only selects free power-on values. -/
  builds : Nat
  /-- The block itself. -/
  block : Block
deriving DecidableEq, Repr

/-- The outcome of an operation or of a step. -/
abbrev Result : Type := Host.Outcome State Fault Refusal

/-- `s` with another live instance. -/
def State.withPhy (s : State) (x : Phy) : State := { s with block := .live x }

/-- `s` with other wires. -/
def State.withSig (s : State) (g : Signals) : State := { s with sig := g }

/-- `s` with other outputs. -/
def State.withOut (s : State) (o : Outputs) : State := { s with out := o }

/-- `s` with the error value in place of an instance. -/
def State.withError (s : State) (e : ConstructError) : State := { s with block := .failed e }

/-- `s` with a new instance as number `n` of the run, at its tick 0. -/
def State.withNewInstance (s : State) (n : Nat) (x : Phy) : State :=
  { s with builds := n, tick := 0, block := .live x }

/-- `s` with the inputs of the tick to be evaluated. -/
def State.withInput (s : State) (i : TickInput) : State := { s with inp := i }

/-- `s` with the operands of the construction function to be evaluated. -/
def State.withArgs (s : State) (a : ConstructArgs) : State := { s with args := a }

/-- `s` with other stimuli to come. -/
def State.withScript (s : State) (l : List Stimulus) : State := { s with script := l }

/-- `s` at another tick index. -/
def State.withTick (s : State) (t : Nat) : State := { s with tick := t }

/-- The inputs before the first tick. -/
def TickInput.none : TickInput := { phases := [], ctl := [], pinIn := [], busRead := Option.none }

/-- The machine right after power-on: the reference instance in the power-on state of
70_reset_and_hazards.md R230, nothing placed in the script. -/
def State.reset : State :=
  { script := [], inp := TickInput.none, args := referenceArgs, sig := Signals.idle,
    out := Outputs.none, tick := 0, builds := 0,
    block := .live (powerOnPhy 0 referenceParams referenceSettings) }

end Sys2Proof.Machine
end

