-- ==== Sys2Proof/Machine/Ops.lean ====
section
/-! DEFINITION. The named operations over the block's registers, shared by all meanings: access to the
live instance, lane pulses, delay lines, the `CAL` space, raising a construction error and starting an
instance. -/

namespace Sys2Proof.Machine

/-- Run an operation on the live instance; without one no tick can be run (60_exceptions.md R210). -/
def onLive (s : State) (f : Phy → Result) : Result :=
  match s.block with
  | .live x => f x
  | .failed _ => .fault .noInstance

/-- Run an operation that exists only in some variants (30_encoding.md R80); elsewhere its bit is
refused (R77(a), R77(b)). -/
def ifPresent (present : Bool) (r : Result) : Result :=
  if present then r else .refused .absentOperation

/-- Raising a construction error (60_exceptions.md R210, R216): nothing is saved and control goes
nowhere; the error value, with what R211 to R213 record, stands in place of an instance, and there are
no wires and no outputs. The only recovery is to construct again (R217). -/
def raiseConstruct (s : State) (e : ConstructError) : State :=
  ((s.withError e).withSig Signals.idle).withOut Outputs.none

/-- An instance comes to exist in its power-on state (40_construction.md R108, 20_memory.md R68,
70_reset_and_hazards.md R230, R231): tick 0, no wires, no outputs. -/
def startInstance (s : State) (p : Params) (k : PhySettings) : State :=
  ((s.withNewInstance (s.builds + 1) (powerOnPhy (s.builds + 1) p k)).withSig Signals.idle).withOut
    Outputs.none

/-- Zero a tap or a rotation (44_delay_cal.md R174, R178, 43_bitslip.md R163). -/
def zeroed (_ : Nat) : Nat := 0

/-- One step of a tap, wrapping modulo `2^TAP_BITS` (44_delay_cal.md R175, R179, R183). -/
def tapStep (p : Params) (v : Nat) : Nat := (v + 1) % 2 ^ p.tapBits

/-- One step of a rotation, wrapping modulo `2N` (43_bitslip.md R164). -/
def rotStep (p : Params) (v : Nat) : Nat := (v + 1) % (2 * p.phases)

/-- A pulse on the input delay taps of the selected lanes (44_delay_cal.md R172). -/
def pulseInTap (x : Phy) (f : Nat → Nat) : Phy := { x with inTap := pulseLanes x.laneSelect f x.inTap }

/-- A pulse on the output delay taps of the selected lanes (44_delay_cal.md R172). -/
def pulseOutTap (x : Phy) (f : Nat → Nat) : Phy :=
  { x with outTap := pulseLanes x.laneSelect f x.outTap }

/-- A pulse on the rotations of the selected lanes (43_bitslip.md R166). -/
def pulseRot (x : Phy) (f : Nat → Nat) : Phy := { x with rot := pulseLanes x.laneSelect f x.rot }

/-- `lane_select <- v`, `LANES` bits (44_delay_cal.md R173). -/
def writeLaneSelect (x : Phy) (v : Bits) : Phy := { x with laneSelect := fitBits (lanesOf x.params) v }

/-- `wlevel_en <- v` (45_write_leveling.md R190). -/
def writeWlevelEn (x : Phy) (v : Bool) : Phy := { x with wlevelEn := v }

/-- The write-enable registers after one tick (42_flow_control.md R141). -/
def shiftWr (x : Phy) (wren : Bool) : Phy :=
  { x with wrTail := bitAt x.wrSr (x.settings.writeLatency + 1), wrSr := shiftIn wren x.wrSr }

/-- The read-enable register after one tick (42_flow_control.md R151). -/
def shiftRd (x : Phy) (rden : Bool) : Phy := { x with rdSr := shiftIn rden x.rdSr }

/-- `ser_pipe` after one tick (10_state.md R35). -/
def pushSer (x : Phy) (e : SerEntry) : Phy := { x with serPipe := shiftIn e x.serPipe }

/-- `des_pipe` after one tick (10_state.md R36). -/
def pushDes (x : Phy) (groups : List Bits) : Phy := { x with desPipe := shiftIn groups x.desPipe }

/-- The window register and `bs_pipe` after one tick (10_state.md R34, R37). -/
def pushAlign (x : Phy) (prev selected : List Bits) : Phy :=
  { x with bsPrev := prev, bsPipe := shiftIn selected x.bsPipe }

/-- `wlevel_en` as every formula reads it: 0 when `HAS_WLEVEL` is false (45_write_leveling.md R196). -/
def leveling (x : Phy) : Bool := x.params.hasWlevel && x.wlevelEn

/-- `MemRead(CAL, number)`: what a bus read of a present register returns (20_memory.md R63,
30_encoding.md R78, 44_delay_cal.md R182); pulse registers read 0. -/
def calRead (x : Phy) (number : Nat) : Nat :=
  if number = 0 then natOfBits x.laneSelect
  else if number = 7 then x.wlevelEn.toNat
  else if number = 9 then x.params.tapBase
  else 0

/-- Put the value of a bus read on the bus (46_system_tick.md R201). -/
def putBus (s : State) (value : Nat) : State := s.withOut { s.out with busValue := some value }

end Sys2Proof.Machine
end

