-- ==== Sys2Proof/Machine/Operands.lean ====
section
/-! DEFINITION. How operands are assembled: the flow word, serial words from phase fields, positions of
the tracking registers, the aligner's buffer and the read-data words. -/

namespace Sys2Proof.Machine

/-- Phase `p` of the phase bus (20_memory.md R52). -/
def phaseAt (i : TickInput) (p : Nat) : PhaseIn := i.phases.getD p PhaseIn.zero

/-- `wren(t)`, the enable of the designated write phase (30_encoding.md R74). -/
def wrenOf (x : Phy) (i : TickInput) : Bool := (phaseAt i x.settings.wrphase).wrdataEn

/-- `rden(t)`, the enable of the designated read phase (30_encoding.md R74). -/
def rdenOf (x : Phy) (i : TickInput) : Bool := (phaseAt i x.settings.rdphase).rddataEn

/-- The flow word cut out of the phase bus, bit 0 `WREN`, bit 1 `RDEN` (30_encoding.md R72, R74). -/
def flowWord (x : Phy) (i : TickInput) : BitVec 2 :=
  BitVec.ofBool (rdenOf x i) ++ BitVec.ofBool (wrenOf x i)

/-- The serial word of a pin that holds one bit for both slots of each phase (41_serdes.md R121). -/
def heldWord (n : Nat) (i : TickInput) (field : PhaseIn → Bool) : Bits :=
  wordOf (2 * n) fun j => field (phaseAt i (j / 2))

/-- The serial words of a group of `width` command or address pins (41_serdes.md R121). -/
def heldWords (n width : Nat) (i : TickInput) (field : PhaseIn → Bits) : List Bits :=
  (List.range width).map fun k => heldWord n i fun ph => bitAt (field ph) k

/-- The serial word of a pin with two bits in each phase's word: bit `k` in the even slot, bit
`width + k` in the odd one (20_memory.md R58, R59, 41_serdes.md R122, R123). -/
def ddrWord (n width : Nat) (i : TickInput) (field : PhaseIn → Bits) (k : Nat) : Bits :=
  wordOf (2 * n) fun j => bitAt (field (phaseAt i (j / 2))) (if j % 2 = 0 then k else width + k)

/-- `w_pin(t)` of every command and address pin (41_serdes.md R121, 20_memory.md R54); an absent group
has no pin. -/
def cmdWordsOf (p : Params) (i : TickInput) : CmdWords :=
  { a := heldWords p.phases p.addrBits i PhaseIn.address,
    ba := heldWords p.phases p.bankBits i PhaseIn.bank,
    ras := [heldWord p.phases i PhaseIn.ras],
    cas := [heldWord p.phases i PhaseIn.cas],
    we := [heldWord p.phases i PhaseIn.we],
    cke := heldWords p.phases p.nRanks i PhaseIn.cke,
    odt := heldWords p.phases p.nRanks i PhaseIn.odt,
    cs := heldWords p.phases (optionalPins p.hasCs p.nRanks) i PhaseIn.cs,
    reset := List.replicate (optionalPins p.hasReset 1) (heldWord p.phases i PhaseIn.reset) }

/-- `w_dq[i](t)` of every data pin (41_serdes.md R122). -/
def dqWordsOf (p : Params) (i : TickInput) : List Bits :=
  (List.range p.dataBits).map (ddrWord p.phases p.dataBits i PhaseIn.wrdata)

/-- `w_dm[l](t)` of every mask pin (41_serdes.md R123). -/
def dmWordsOf (p : Params) (i : TickInput) : List Bits :=
  (List.range (lanesOf p)).map (ddrWord p.phases (lanesOf p) i PhaseIn.wrdataMask)

/-- `w_dqs(t)` (41_serdes.md R124, 45_write_leveling.md R192): leveling first, then the zero windows,
else the toggle pattern. -/
def dqsWordOf (x : Phy) (pre post strobe : Bool) : Bits :=
  if leveling x then
    if strobe then wlevelPatternOf x.params else wordOf (2 * x.params.phases) fun _ => false
  else if pre || post then wordOf (2 * x.params.phases) fun _ => false
  else dqsPatternOf x.params

/-- `out_pin(t)`: data pins enabled by `oe`, strobe pins by `oe_dqs`, the others always driven
(41_serdes.md R126). -/
def driveOf (p : Params) (cmd : CmdWords) (dq dm : List Bits) (dqs : Bits) (oe oeDqs : Bool) : SerEntry :=
  { cmd := cmd, dm := dm,
    dq := dq.map fun w => { word := w, en := oe },
    dqs := List.replicate (lanesOf p) { word := dqs, en := oeDqs } }

/-- What a bidirectional pin presents (20_memory.md R55). -/
def presentPin (e : PinEntry) : PadValue := if e.en then .driven e.word else .hiZ

/-- What every pin presents when an entry leaves `ser_pipe` (41_serdes.md R127). -/
def padsOf (e : SerEntry) : Pads :=
  { a := e.cmd.a.map .driven, ba := e.cmd.ba.map .driven, ras := e.cmd.ras.map .driven,
    cas := e.cmd.cas.map .driven, we := e.cmd.we.map .driven, cke := e.cmd.cke.map .driven,
    odt := e.cmd.odt.map .driven, cs := e.cmd.cs.map .driven, reset := e.cmd.reset.map .driven,
    dq := e.dq.map presentPin, dm := e.dm.map .driven, dqs := e.dqs.map presentPin }

/-- Positions -1 to `WL+2` of the write-enable tracking register, in a list that starts at position -1:
the current input, `wr_sr`, `wr_tail` (10_state.md R30, R31). -/
def wrLine (x : Phy) (wren : Bool) : List Bool := wren :: (x.wrSr ++ [x.wrTail])

/-- `wr_sr[q - 1]`, with `wr_sr[-1]` the current input and `wr_sr[WL+2]` the tail. -/
def wrAt (x : Phy) (wren : Bool) (q : Nat) : Bool := bitAt (wrLine x wren) q

/-- What the deserializer samples in this tick: `2N` bits of every data pin in slot order
(20_memory.md R56, 10_state.md R36). -/
def sampledOf (p : Params) (i : TickInput) : List Bits :=
  (List.range p.dataBits).map fun k => fitBits (2 * p.phases) (i.pinIn.getD k [])

/-- `buf_i(t) = g_i(t) ++ bs_prev[i]`, the older group in the low bits (43_bitslip.md R160). -/
def alignBuffer (prev group : Bits) : Bits := prev ++ group

/-- The `2N` bits of the buffer from index `rot`, modulo its width `4N` (43_bitslip.md R161). -/
def alignWord (n rot : Nat) (buffer : Bits) : Bits :=
  wordOf (2 * n) fun k => bitAt buffer ((rot + k) % (4 * n))

/-- The groups of all data pins, each `2N` bits wide. -/
def groupsOf (p : Params) (group : List Bits) : List Bits :=
  (List.range p.dataBits).map fun k => fitBits (2 * p.phases) (group.getD k [])

/-- `a_i(t)` of every data pin, with the rotation of its lane `i div 8` (43_bitslip.md R161,
00_scope.md R15). -/
def selectedOf (x : Phy) (group : List Bits) : List Bits :=
  (List.range x.params.dataBits).map fun k =>
    alignWord x.params.phases (x.rot.getD (k / 8) 0)
      (alignBuffer (x.bsPrev.getD k []) (fitBits (2 * x.params.phases) (group.getD k [])))

/-- `phase[p].rddata` from the aligned groups (41_serdes.md R130). -/
def rddataWord (p : Params) (aligned : List Bits) (ph : Nat) : Bits :=
  wordOf (2 * p.dataBits) fun b =>
    if b < p.dataBits then bitAt (aligned.getD b []) (2 * ph)
    else bitAt (aligned.getD (b - p.dataBits) []) (2 * ph + 1)

/-- `rddata` of every phase (41_serdes.md R130). -/
def rddataOf (p : Params) (aligned : List Bits) : List Bits :=
  (List.range p.phases).map (rddataWord p aligned)

end Sys2Proof.Machine
end

