-- ==== Sys2Proof/Machine/Bitslip.lean ====
section
/-! DEFINITION. Meanings of the Bitslip Aligner's operations (43_bitslip.md). -/

namespace Sys2Proof.Machine

/-- `BS_ALIGN` (R161): select from the buffer with the rotation of the lane, keep the current group as
the window register, and pass the selection through `bs_pipe` (10_state.md R37). -/
def execBsAlign (s : State) : Result :=
  onLive s fun x =>
    .next ((s.withPhy (pushAlign x (groupsOf x.params s.sig.group) (selectedOf x s.sig.group))).withSig
      { s.sig with aligned := shiftOut (selectedOf x s.sig.group) x.bsPipe })

/-- `BS_RST` (R163). -/
def execBsRst (s : State) : Result :=
  onLive s fun x => .next (s.withPhy (pulseRot x zeroed))

/-- `BS_INC` (R164). -/
def execBsInc (s : State) : Result :=
  onLive s fun x => .next (s.withPhy (pulseRot x (rotStep x.params)))

end Sys2Proof.Machine
end

