-- ==== Sys2Proof/Machine/Construct.lean ====
section
/-! DEFINITION. Meanings of the construction-time operations (40_construction.md). -/

namespace Sys2Proof.Machine

/-- `RESOLVE` (R101): the result on the construction outputs, or `UnsupportedConfiguration`. It runs on
every operand. -/
def execResolve (s : State) : Result :=
  match resolveOperands s.args.params.clCwlTable s.args.family s.args.clockPeriod with
  | .ok r => .next (s.withOut { s.out with resolved := some r })
  | .error e => .next (raiseConstruct s e)

/-- `SYS_LATENCY` (R105). -/
def execSysLatency (s : State) : Result :=
  .next (s.withOut { s.out with sysLatency := some (sysLatency s.args.n s.args.latency) })

/-- `PHASE_ASSIGN` (R106). -/
def execPhaseAssign (s : State) : Result :=
  .next (s.withOut { s.out with phases := some (phaseAssign s.args.n s.args.sys s.args.latency) })

/-- `BUILD_SETTINGS` (R108): a new instance at power-on, or the first error; parameters outside the
preconditions of 60_exceptions.md R214 are refused. -/
def execBuildSettings (s : State) : Result :=
  if paramsLegal s.args.params then
    match buildSettings s.args.params with
    | .ok k => .next (startInstance s s.args.params k)
    | .error e => .next (raiseConstruct s e)
  else .refused .illFormedParameters

end Sys2Proof.Machine
end

