-- ==== Sys2Proof/Machine/DelayCal.lean ====
section
/-! DEFINITION. Meanings of the Delay Calibration Registers' operations (44_delay_cal.md): the lane
mask, the delay-tap pulses, `CAL_NOP` and the three bus reads. -/

namespace Sys2Proof.Machine

/-- `SEL` (R173). -/
def execSel (wdata : Bits) (s : State) : Result :=
  onLive s fun x => .next (s.withPhy (writeLaneSelect x wdata))

/-- `RDLY_RST` (R174). -/
def execRdlyRst (s : State) : Result :=
  onLive s fun x => .next (s.withPhy (pulseInTap x zeroed))

/-- `RDLY_INC` (R175). -/
def execRdlyInc (s : State) : Result :=
  onLive s fun x => .next (s.withPhy (pulseInTap x (tapStep x.params)))

/-- `WDLY_RST` (R178), only with `HAS_ODELAY`. -/
def execWdlyRst (s : State) : Result :=
  onLive s fun x => ifPresent x.params.hasOdelay (.next (s.withPhy (pulseOutTap x zeroed)))

/-- `WDLY_INC` (R179), only with `HAS_ODELAY`. -/
def execWdlyInc (s : State) : Result :=
  onLive s fun x => ifPresent x.params.hasOdelay (.next (s.withPhy (pulseOutTap x (tapStep x.params))))

/-- `CAL_NOP` (30_encoding.md R79): no element of the calibration state changes. -/
def execCalNop (s : State) : Result :=
  onLive s fun _ => .next s

/-- `RD_LANE_SELECT` (R182), register 0. -/
def execRdLaneSelect (s : State) : Result :=
  onLive s fun x => .next (putBus s (calRead x 0))

/-- `RD_WLEVEL_EN` (R182), register 7, only with `HAS_WLEVEL`. -/
def execRdWlevelEn (s : State) : Result :=
  onLive s fun x =>
    if x.params.hasWlevel then .next (putBus s (calRead x 7)) else .refused .absentRegister

/-- `RD_TAP_BASE` (R182), register 9. -/
def execRdTapBase (s : State) : Result :=
  onLive s fun x => .next (putBus s (calRead x 9))

end Sys2Proof.Machine
end

