-- ==== Sys2Proof/Machine/Flags.lean ====
section
/-! DEFINITION. The five flags of 10_state.md R38, as functions of the pre-state and the inputs. -/

namespace Sys2Proof.Machine

/-- `oe(t)` (42_flow_control.md R142). -/
def oeFlag (x : Phy) : Bool :=
  bitAt x.wrSr (x.settings.writeLatency - 1) || bitAt x.wrSr x.settings.writeLatency ||
    bitAt x.wrSr (x.settings.writeLatency + 1)

/-- `oe_dqs(t)` from `oe(t)` (42_flow_control.md R143). -/
def oeDqsFlag (x : Phy) (oe : Bool) : Bool := oe || leveling x

/-- `D = DQS_SYS_LATENCY` of an instance (40_construction.md R111). -/
def centerOf (x : Phy) : Nat := dqsSysLatencyOf x.params x.settings.writeLatency

/-- `dqs_pre(t) = wr_sr[D-2] AND NOT wr_sr[D]` (42_flow_control.md R144). -/
def dqsPreFlag (x : Phy) (wren : Bool) : Bool :=
  wrAt x wren (centerOf x - 1) && !wrAt x wren (centerOf x + 1)

/-- `dqs_post(t) = wr_sr[D+2] AND NOT wr_sr[D]` (42_flow_control.md R145). -/
def dqsPostFlag (x : Phy) (wren : Bool) : Bool :=
  wrAt x wren (centerOf x + 3) && !wrAt x wren (centerOf x + 1)

/-- `rddata_valid(t)`, the same on every phase (42_flow_control.md R151, 45_write_leveling.md R194). -/
def validFlag (x : Phy) : Bool := bitAt x.rdSr (x.settings.readLatency - 2) || leveling x

end Sys2Proof.Machine
end

