-- ==== Sys2Proof/Machine/FlowControl.lean ====
section
/-! DEFINITION. Meanings of the Flow-Control Pipeline's operations (42_flow_control.md). -/

namespace Sys2Proof.Machine

/-- `WREN` (R140): `wren(t)` is 1. -/
def execWren (s : State) : Result :=
  onLive s fun _ => .next (s.withSig { s.sig with wren := true })

/-- `RDEN` (R150): `rden(t)` is 1. -/
def execRden (s : State) : Result :=
  onLive s fun _ => .next (s.withSig { s.sig with rden := true })

/-- `WR_TRACK` (R141). -/
def execWrTrack (s : State) : Result :=
  onLive s fun x => .next (s.withPhy (shiftWr x s.sig.wren))

/-- `OE` (R142). -/
def execOe (s : State) : Result :=
  onLive s fun x => .next (s.withSig { s.sig with oe := oeFlag x })

/-- `OE_DQS` (R143). -/
def execOeDqs (s : State) : Result :=
  onLive s fun x => .next (s.withSig { s.sig with oeDqs := oeDqsFlag x s.sig.oe })

/-- `DQS_PRE` (R144). -/
def execDqsPre (s : State) : Result :=
  onLive s fun x => .next (s.withSig { s.sig with dqsPre := dqsPreFlag x s.sig.wren })

/-- `DQS_POST` (R145). -/
def execDqsPost (s : State) : Result :=
  onLive s fun x => .next (s.withSig { s.sig with dqsPost := dqsPostFlag x s.sig.wren })

/-- `RD_TRACK` (R151). -/
def execRdTrack (s : State) : Result :=
  onLive s fun x => .next (s.withPhy (shiftRd x s.sig.rden))

/-- `RD_VALID` (R151): the same value on every phase. -/
def execRdValid (s : State) : Result :=
  onLive s fun x =>
    .next (s.withOut { s.out with rddataValid := List.replicate x.params.phases (validFlag x) })

end Sys2Proof.Machine
end

