-- ==== Sys2Proof/Machine/SerDes.lean ====
section
/-! DEFINITION. Meanings of the SerDes Bank's operations (41_serdes.md). -/

namespace Sys2Proof.Machine

/-- `SER_CMD` (R121). -/
def execSerCmd (s : State) : Result :=
  onLive s fun x => .next (s.withSig { s.sig with cmd := cmdWordsOf x.params s.inp })

/-- `SER_DQ` (R122). -/
def execSerDq (s : State) : Result :=
  onLive s fun x => .next (s.withSig { s.sig with dq := dqWordsOf x.params s.inp })

/-- `SER_DM` (R123). -/
def execSerDm (s : State) : Result :=
  onLive s fun x => .next (s.withSig { s.sig with dm := dmWordsOf x.params s.inp })

/-- `SER_DQS` (R124). -/
def execSerDqs (s : State) : Result :=
  onLive s fun x =>
    .next (s.withSig { s.sig with dqs := dqsWordOf x s.sig.dqsPre s.sig.dqsPost s.sig.strobe })

/-- `TRISTATE` (R126). -/
def execTristate (s : State) : Result :=
  onLive s fun x =>
    .next (s.withSig { s.sig with
      drive := driveOf x.params s.sig.cmd s.sig.dq s.sig.dm s.sig.dqs s.sig.oe s.sig.oeDqs })

/-- `SER_PIPE` (R127): the oldest entry is on the pads, the entry of this tick enters. -/
def execSerPipe (s : State) : Result :=
  onLive s fun x =>
    .next ((s.withPhy (pushSer x s.sig.drive)).withOut
      { s.out with pads := padsOf (shiftOut s.sig.drive x.serPipe) })

/-- `DES_DQ` (R129): the sampled groups enter, the groups that leave go to the aligner. -/
def execDesDq (s : State) : Result :=
  onLive s fun x =>
    .next ((s.withPhy (pushDes x (sampledOf x.params s.inp))).withSig
      { s.sig with group := shiftOut (sampledOf x.params s.inp) x.desPipe })

/-- `RD_ASSEMBLE` (R130). -/
def execRdAssemble (s : State) : Result :=
  onLive s fun x => .next (s.withOut { s.out with rddata := rddataOf x.params s.sig.aligned })

end Sys2Proof.Machine
end

