-- ==== Sys2Proof/Machine/WriteLevel.lean ====
section
/-! DEFINITION. Meanings of the Write-Leveling Controller's operations (45_write_leveling.md). -/

namespace Sys2Proof.Machine

/-- `WLEVEL_EN` (R190), only with `HAS_WLEVEL`. -/
def execWlevelEn (wdata : Bool) (s : State) : Result :=
  onLive s fun x => ifPresent x.params.hasWlevel (.next (s.withPhy (writeWlevelEn x wdata)))

/-- `WLEVEL_STB` (R191), only with `HAS_WLEVEL`: in leveling mode the strobe word of this tick is the
training pattern; outside it the pulse has no effect and is not remembered. -/
def execWlevelStb (s : State) : Result :=
  onLive s fun x =>
    ifPresent x.params.hasWlevel (.next (s.withSig { s.sig with strobe := s.sig.strobe || leveling x }))

end Sys2Proof.Machine
end

