-- ==== Sys2Proof/Machine/Dispatch.lean ====
section
/-! DEFINITION. The meaning of every operation, one arm for each constructor. -/

namespace Sys2Proof.Machine

def exec (i : Instr) (s : State) : Host.Outcome State Fault Refusal :=
  match i with
  | .resolve => Sys2Proof.Machine.execResolve s
  | .sysLatency => Sys2Proof.Machine.execSysLatency s
  | .phaseAssign => Sys2Proof.Machine.execPhaseAssign s
  | .buildSettings => Sys2Proof.Machine.execBuildSettings s
  | .rdlyRst => Sys2Proof.Machine.execRdlyRst s
  | .rdlyInc => Sys2Proof.Machine.execRdlyInc s
  | .bsRst => Sys2Proof.Machine.execBsRst s
  | .bsInc => Sys2Proof.Machine.execBsInc s
  | .wdlyRst => Sys2Proof.Machine.execWdlyRst s
  | .wdlyInc => Sys2Proof.Machine.execWdlyInc s
  | .wlevelStb => Sys2Proof.Machine.execWlevelStb s
  | .wlevelEn wdata => Sys2Proof.Machine.execWlevelEn wdata s
  | .sel wdata => Sys2Proof.Machine.execSel wdata s
  | .calNop => Sys2Proof.Machine.execCalNop s
  | .wren => Sys2Proof.Machine.execWren s
  | .rden => Sys2Proof.Machine.execRden s
  | .serCmd => Sys2Proof.Machine.execSerCmd s
  | .serDq => Sys2Proof.Machine.execSerDq s
  | .serDm => Sys2Proof.Machine.execSerDm s
  | .serDqs => Sys2Proof.Machine.execSerDqs s
  | .tristate => Sys2Proof.Machine.execTristate s
  | .serPipe => Sys2Proof.Machine.execSerPipe s
  | .desDq => Sys2Proof.Machine.execDesDq s
  | .rdAssemble => Sys2Proof.Machine.execRdAssemble s
  | .wrTrack => Sys2Proof.Machine.execWrTrack s
  | .oe => Sys2Proof.Machine.execOe s
  | .oeDqs => Sys2Proof.Machine.execOeDqs s
  | .dqsPre => Sys2Proof.Machine.execDqsPre s
  | .dqsPost => Sys2Proof.Machine.execDqsPost s
  | .rdTrack => Sys2Proof.Machine.execRdTrack s
  | .rdValid => Sys2Proof.Machine.execRdValid s
  | .bsAlign => Sys2Proof.Machine.execBsAlign s
  | .rdLaneSelect => Sys2Proof.Machine.execRdLaneSelect s
  | .rdWlevelEn => Sys2Proof.Machine.execRdWlevelEn s
  | .rdTapBase => Sys2Proof.Machine.execRdTapBase s

end Sys2Proof.Machine
end

