-- ==== Sys2Proof/Machine/Tick.lean ====
section
/-! DEFINITION. One system tick as the sequence of its operations (46_system_tick.md R202), the inputs of
a tick the script says nothing about, and the stimulus that a bare word of the opcode table stands for. -/

namespace Sys2Proof.Machine

/-- A field of which the script says nothing: free values (30_encoding.md R81). -/
def idleBits (build tick phase : Nat) (field : PhaseField) (width : Nat) : Bits :=
  wordOf width (Config.idleField build tick phase field)

/-- A phase of which the script says nothing: free values, both enables 0. -/
def idlePhase (p : Params) (build tick phase : Nat) : PhaseIn :=
  { address := idleBits build tick phase .address p.addrBits,
    bank := idleBits build tick phase .bank p.bankBits,
    ras := Config.idleField build tick phase .ras 0,
    cas := Config.idleField build tick phase .cas 0,
    we := Config.idleField build tick phase .we 0,
    cke := idleBits build tick phase .cke p.nRanks,
    odt := idleBits build tick phase .odt p.nRanks,
    cs := idleBits build tick phase .cs p.nRanks,
    reset := Config.idleField build tick phase .reset 0,
    wrdata := idleBits build tick phase .wrdata (2 * p.dataBits),
    wrdataMask := idleBits build tick phase .wrdataMask (2 * lanesOf p),
    wrdataEn := false, rddataEn := false }

/-- A tick of which the script says nothing, the line `nop` of 30_encoding.md R81: `CTL = 0`, `FLOW = 0`,
no bus read; every other input is a free value. -/
def idleInput (p : Params) (build tick : Nat) : TickInput :=
  { phases := (List.range p.phases).map (idlePhase p build tick),
    ctl := wordOf (10 + lanesOf p) fun _ => false,
    pinIn := (List.range p.dataBits).map fun pin => wordOf (2 * p.phases) (Config.idlePin build tick pin),
    busRead := none }

/-- The idle inputs of the next tick of a state. -/
def idleInputOf (s : State) : TickInput :=
  match s.block with
  | .live x => idleInput x.params s.builds s.tick
  | .failed _ => TickInput.none

/-- The refusal of a word the decoder refuses (60_exceptions.md R226). -/
def refusalOf : DecodeError → Refusal
  | .absentOperation => .absentOperation
  | .resetWithIncrement => .resetWithIncrement
  | .absentRegister => .absentRegister

/-- The operations that a bus read selects, if one is made (44_delay_cal.md R182). -/
def busOps (v : Variant) : Option (BitVec 4) → Except DecodeError (List Instr)
  | none => .ok []
  | some r => decode v (.reg r)

/-- `CTL[6]` is an operand of the strobe word of its own tick (41_serdes.md R124), so its operation
comes before the operations of `TICK`; the other calibration operations write state. -/
def beforeTick (i : Instr) : Bool := decide (i = .wlevelStb)

/-- The operations of one tick in the dependency order of 46_system_tick.md R202: every read of a state
element comes before its write, so each operation reads the pre-state. -/
def schedule (bus flow cal : List Instr) : List Instr :=
  bus ++ flow ++ cal.filter beforeTick ++ tickOrder ++ cal.filter fun i => !beforeTick i

/-- The operations of a tick, or why the model refuses it (46_system_tick.md R202 step 0). -/
def decodeTick (x : Phy) (i : TickInput) : Except DecodeError (List Instr) :=
  match decode (variantOf x.params) (.ctl i.ctl) with
  | .error e => .error e
  | .ok cal =>
    match busOps (variantOf x.params) i.busRead with
    | .error e => .error e
    | .ok bus => .ok (schedule bus (decodeFlow (flowWord x i)) cal)

/-- The value on the bus before any operation of the tick: a read of a pulse register returns 0
(20_memory.md R63); no read, no value. -/
def initialBus (i : TickInput) : Option Nat := i.busRead.map fun _ => 0

/-- The state in which the operations of a tick run: its inputs sampled, no wire set yet. -/
def beginTick (s : State) (i : TickInput) : State :=
  ((s.withInput i).withSig Signals.idle).withOut { s.out with busValue := initialBus i }

/-- The operations one after another, up to the first that stops. -/
def runOps : List Instr → State → Result
  | [], s => .next s
  | i :: rest, s =>
    match exec i s with
    | .next t => runOps rest t
    | .fault f => .fault f
    | .refused r => .refused r

/-- The tick boundary: the tick index advances by 1 (10_state.md R21). -/
def endTick : Result → Result
  | .next t => .next (t.withTick (t.tick + 1))
  | .fault f => .fault f
  | .refused r => .refused r

/-- One system tick with the inputs `i` (46_system_tick.md R202). -/
def runTick (s : State) (i : TickInput) : Result :=
  onLive s fun x =>
    match decodeTick x i with
    | .error e => .refused (refusalOf e)
    | .ok ops => endTick (runOps ops (beginTick s i))

/-- One call of a construction function (30_encoding.md R70, R83). -/
def runConstruct (s : State) (fn : BitVec 2) (args : ConstructArgs) : Result :=
  exec (decodeFn fn) (s.withArgs args)

/-- The next stimulus of the script; when there is none the tick is idle. -/
def runStimulus (s : State) : Result :=
  match s.script with
  | [] => runTick s (idleInputOf s)
  | .tick i :: rest => runTick (s.withScript rest) i
  | .construct fn args :: rest => runConstruct (s.withScript rest) fn args

/-- Set the flow flags of the designated phases (30_encoding.md R74), the other phases as they are. -/
def withFlow (x : Phy) (w : BitVec 2) (i : TickInput) : TickInput :=
  { i with phases := i.phases.mapIdx fun p ph =>
      { ph with
        wrdataEn := if p = x.settings.wrphase then w.getLsbD 0 else ph.wrdataEn,
        rddataEn := if p = x.settings.rdphase then w.getLsbD 1 else ph.rddataEn } }

/-- The variant in which a bare word is read: that of the live instance. DESIGN CHOICE (log entry 11): when
construction has failed it is that of the reset instance. -/
def wordVariant (s : State) : Variant :=
  match s.block with
  | .live x => variantOf x.params
  | .failed _ => resetVariant

/-- The stimulus that presents one word of one format and says nothing else. -/
def stimulusOf (s : State) : Encoded → Stimulus
  | .fn w => .construct w referenceArgs
  | .ctl w => .tick { idleInputOf s with ctl := w }
  | .flow w =>
    .tick (match s.block with
      | .live x => withFlow x w (idleInputOf s)
      | .failed _ => idleInputOf s)
  | .everyTick => .tick (idleInputOf s)
  | .reg w => .tick { idleInputOf s with busRead := some w }

end Sys2Proof.Machine
end

