-- ==== Sys2Proof/Machine/Step.lean ====
section
/-! DEFINITION. The step of the machine: one system tick, or one call of a construction function. -/

namespace Sys2Proof.Machine

/-- One step: the next stimulus of the script, an idle tick when there is none. -/
def step (s : State) : Host.Outcome State Fault Refusal := runStimulus s

/-- `s` with a word of the opcode table as the next stimulus, a control word as wide as the live
instance's (30_encoding.md R83). -/
def State.withFetchWord (s : State) (nbits w : Nat) : State :=
  s.withScript (stimulusOf s (tableWord (wordVariant s) nbits w) :: s.script)

end Sys2Proof.Machine
end

