-- ==== Sys2Proof/Machine/Script.lean ====
section
/-! DEFINITION. The stimulus notation of 30_encoding.md R81 and its pseudo-operations (R82): a line is
the list of the operations of one tick. -/

namespace Sys2Proof.Machine

/-- The flow word of a line: bit 0 when it holds `wren`, bit 1 when it holds `rden` (R81). -/
def lineFlow (line : List Instr) : BitVec 2 :=
  BitVec.ofBool (line.contains .rden) ++ BitVec.ofBool (line.contains .wren)

/-- The inputs of the tick of a line, over `base` for every field the line does not write (R81). A line
that gives one operand field twice has the union of the operands (`encodeCtl`, log entry 26). -/
def lineInput (x : Phy) (base : TickInput) (line : List Instr) : TickInput :=
  withFlow x (lineFlow line) { base with ctl := encodeCtl (variantOf x.params) line, busRead := none }

/-- The stimuli of a script, one tick for each line. -/
def scriptOf (x : Phy) (base : TickInput) (lines : List (List Instr)) : List Stimulus :=
  lines.map fun line => .tick (lineInput x base line)

/-- `idle K` (R82). -/
def idleLines (k : Nat) : List (List Instr) := List.replicate k []

/-- `sel.all` (R82). -/
def selAllLines (v : Variant) : List (List Instr) := [[.sel (List.replicate v.lanes true)]]

/-- `rdly.set K` (R82). -/
def rdlySetLines (k : Nat) : List (List Instr) := [.rdlyRst] :: List.replicate k [.rdlyInc]

/-- `wdly.set K` (R82). -/
def wdlySetLines (k : Nat) : List (List Instr) := [.wdlyRst] :: List.replicate k [.wdlyInc]

/-- `bs.set K` (R82). -/
def bsSetLines (k : Nat) : List (List Instr) := [.bsRst] :: List.replicate k [.bsInc]

/-- `cal.zero` (R82). -/
def calZeroLines (v : Variant) : List (List Instr) :=
  selAllLines v ++ [[.rdlyRst, .bsRst] ++ if v.hasOdelay then [.wdlyRst] else []]

end Sys2Proof.Machine
end

