-- ==== Sys2Proof/Safety.lean ====
section
/-! DEFINITION. The terms in which claims speak: the invariant of 46_system_tick.md R204, one tick as the
simultaneous function of R202, and runs over given inputs. -/

namespace Sys2Proof.Machine

/-- `count` serial words or groups of `2N` bits. -/
def WordsWf (n count : Nat) (words : List Bits) : Prop :=
  words.length = count ∧ ∀ w ∈ words, w.length = 2 * n

/-- `count` bidirectional pins with words of `2N` bits. -/
def PinsWf (n count : Nat) (pins : List PinEntry) : Prop :=
  pins.length = count ∧ ∀ e ∈ pins, e.word.length = 2 * n

/-- A word for every command and address pin of 20_memory.md R54. -/
structure CmdWf (p : Params) (c : CmdWords) : Prop where
  a : WordsWf p.phases p.addrBits c.a
  ba : WordsWf p.phases p.bankBits c.ba
  ras : WordsWf p.phases 1 c.ras
  cas : WordsWf p.phases 1 c.cas
  we : WordsWf p.phases 1 c.we
  cke : WordsWf p.phases p.nRanks c.cke
  odt : WordsWf p.phases p.nRanks c.odt
  cs : WordsWf p.phases (if p.hasCs then p.nRanks else 0) c.cs
  reset : WordsWf p.phases (if p.hasReset then 1 else 0) c.reset

/-- An entry of `ser_pipe` for every output pin (10_state.md R35). -/
structure SerEntryWf (p : Params) (e : SerEntry) : Prop where
  cmd : CmdWf p e.cmd
  dm : WordsWf p.phases (lanesOf p) e.dm
  dq : PinsWf p.phases p.dataBits e.dq
  dqs : PinsWf p.phases (lanesOf p) e.dqs

/-- The invariants of 10_state.md that 46_system_tick.md R204 names: the constants are those of a
successful construction, every register has its length, taps stay below `2^TAP_BITS`, rotations below
`2N`, and what a variant does not have is absent. -/
structure PhyInv (x : Phy) : Prop where
  legal : paramsLegal x.params = true
  built : buildSettings x.params = .ok x.settings
  laneSelect : x.laneSelect.length = lanesOf x.params
  inTap : x.inTap.length = lanesOf x.params
  inTapBound : ∀ v ∈ x.inTap, v < 2 ^ x.params.tapBits
  outTap : x.outTap.length = if x.params.hasOdelay then lanesOf x.params else 0
  outTapBound : ∀ v ∈ x.outTap, v < 2 ^ x.params.tapBits
  rot : x.rot.length = lanesOf x.params
  rotBound : ∀ v ∈ x.rot, v < 2 * x.params.phases
  wlevel : x.wlevelEn = true → x.params.hasWlevel = true
  wrSr : x.wrSr.length = x.settings.writeLatency + 2
  rdSr : x.rdSr.length = x.settings.readLatency - 1
  bsPrev : WordsWf x.params.phases x.params.dataBits x.bsPrev
  serPipe : x.serPipe.length = x.params.serDepth
  serEntries : ∀ e ∈ x.serPipe, SerEntryWf x.params e
  desPipe : x.desPipe.length = x.params.desDepth
  desGroups : ∀ g ∈ x.desPipe, WordsWf x.params.phases x.params.dataBits g
  bsPipe : x.bsPipe.length = x.params.bitslipDepth - 1
  bsGroups : ∀ g ∈ x.bsPipe, WordsWf x.params.phases x.params.dataBits g

/-- The invariant of a state: it holds of the instance, if there is one. -/
def Inv (s : State) : Prop := ∀ x, s.block = .live x → PhyInv x

/-- An outcome that is a next state. -/
def Completes (r : Result) : Prop := ∃ t, r = .next t

/-- The value of an exact rational. -/
def ratioValue (r : Ratio) : ℚ := (r.num : ℚ) / (r.den : ℚ)

/-- `q` is `ceil(a / n)` of 00_scope.md R14: the least integer with `q * n >= a`. -/
def IsCeilDiv (a : Int) (n : Nat) (q : Int) : Prop := a ≤ q * n ∧ ∀ r : Int, a ≤ r * n → q ≤ r

/-- `r` is `a mod n` of 00_scope.md R14: the `r` in `[0, n)` with `n` dividing `a - r`. -/
def IsMod (a : Int) (n : Nat) (r : Int) : Prop := 0 ≤ r ∧ r < n ∧ (n : Int) ∣ a - r

/-- A `CONSTRUCT` operation (30_encoding.md R70); all others run in a tick. -/
def IsConstruct (i : Instr) : Prop :=
  i = .resolve ∨ i = .sysLatency ∨ i = .phaseAssign ∨ i = .buildSettings

/-- The operations of a control word in the order of their bits, for given operands (30_encoding.md
R71): every control word selects a part of this list. -/
def ctlCanon (enable : Bool) (mask : Bits) : List Instr :=
  [.rdlyRst, .rdlyInc, .bsRst, .bsInc, .wdlyRst, .wdlyInc, .wlevelStb, .wlevelEn enable, .sel mask]

/-- No resource has both its reset and its increment (30_encoding.md R77(c)). -/
def NoConflict (ops : List Instr) : Prop :=
  ¬ (.rdlyRst ∈ ops ∧ .rdlyInc ∈ ops) ∧ ¬ (.bsRst ∈ ops ∧ .bsInc ∈ ops) ∧
    ¬ (.wdlyRst ∈ ops ∧ .wdlyInc ∈ ops)

/-- Two control words with the same operation bits and the same operands wherever the write-enable is
set (30_encoding.md R77(d)). -/
def SameCtl (v : Variant) (w u : Bits) : Prop :=
  (∀ j, j < 8 ∨ j = 9 → bitAt w j = bitAt u j) ∧
    (bitAt w 7 = true → bitAt w 8 = bitAt u 8) ∧
    (bitAt w 9 = true → ∀ l < v.lanes, bitAt w (10 + l) = bitAt u (10 + l))

/-- Input `k` of a run. -/
def inputAt (inputs : List TickInput) (k : Nat) : TickInput := inputs.getD k TickInput.none

/-- Slot `j` of data pin `pin` in tick `k` of a run (20_memory.md R56). -/
def pinBit (inputs : List TickInput) (k pin j : Nat) : Bool :=
  bitAt ((inputAt inputs k).pinIn.getD pin []) j

/-- `wren(n - k)` of a run that starts with nothing in flight: 0 before its first tick. -/
def wrenAgo (x : Phy) (inputs : List TickInput) (n k : Nat) : Bool :=
  decide (k ≤ n) && wrenOf x (inputAt inputs (n - k))

/-- `rden(n - k)` of a run that starts with nothing in flight: 0 before its first tick. -/
def rdenAgo (x : Phy) (inputs : List TickInput) (n k : Nat) : Bool :=
  decide (k ≤ n) && rdenOf x (inputAt inputs (n - k))

/-- No write enable is in flight, as at power-on (70_reset_and_hazards.md R230). -/
def NoWriteInFlight (x : Phy) : Prop := (∀ p, bitAt x.wrSr p = false) ∧ x.wrTail = false

/-- No read enable is in flight, as at power-on (70_reset_and_hazards.md R230). -/
def NoReadInFlight (x : Phy) : Prop := ∀ p, bitAt x.rdSr p = false

/-- Two instances with the same calibration state (10_state.md R23 to R27). -/
def SameCalibration (x y : Phy) : Prop :=
  x.laneSelect = y.laneSelect ∧ x.inTap = y.inTap ∧ x.outTap = y.outTap ∧ x.rot = y.rot ∧
    x.wlevelEn = y.wlevelEn

/-- `wr_sr[p]` with the shorthands of 10_state.md R30 and R31: position -1 is the current input and
position `WL+2` is `wr_tail`. -/
def wrPos (x : Phy) (wren : Bool) (p : Int) : Bool :=
  if p = -1 then wren
  else if p = (x.settings.writeLatency : Int) + 2 then x.wrTail
  else bitAt x.wrSr p.toNat

/-- The flags of 46_system_tick.md R202 step 2, over positions. -/
def tickOe (x : Phy) : Bool :=
  let wl : Int := x.settings.writeLatency
  wrPos x false (wl - 1) || wrPos x false wl || wrPos x false (wl + 1)

/-- `dqs_pre` of R202 step 2. -/
def tickPre (x : Phy) (i : TickInput) : Bool :=
  let d : Int := centerOf x
  wrPos x (wrenOf x i) (d - 2) && !wrPos x (wrenOf x i) d

/-- `dqs_post` of R202 step 2. -/
def tickPost (x : Phy) (i : TickInput) : Bool :=
  let d : Int := centerOf x
  wrPos x (wrenOf x i) (d + 2) && !wrPos x (wrenOf x i) d

/-- A serial word with every slot 0. -/
def zeroWord (p : Params) : Bits := List.replicate (2 * p.phases) false

/-- `w_dqs(t)` of R202 step 3, from the control word itself. -/
def tickDqs (x : Phy) (i : TickInput) : Bits :=
  if x.params.hasWlevel = true ∧ x.wlevelEn = true then
    if bitAt i.ctl 6 = true then wlevelPatternOf x.params else zeroWord x.params
  else if tickPre x i = true ∨ tickPost x i = true then zeroWord x.params
  else dqsPatternOf x.params

/-- `out` of R202 step 3: what enters the serializer delay line. -/
def tickDrive (x : Phy) (i : TickInput) : SerEntry :=
  { cmd := cmdWordsOf x.params i,
    dm := dmWordsOf x.params i,
    dq := (dqWordsOf x.params i).map fun w => { word := w, en := tickOe x },
    dqs := List.replicate (lanesOf x.params)
      { word := tickDqs x i, en := tickOe x || (x.params.hasWlevel && x.wlevelEn) } }

/-- `g` of R202 step 4: the oldest groups of `des_pipe`, or the pins when `DES_DEPTH = 0`. -/
def tickGroups (x : Phy) (i : TickInput) : List Bits :=
  if x.params.desDepth = 0 then sampledOf x.params i else x.desPipe.getLastD []

/-- `a` of R202 step 4: `2N` bits from index `rot` on, first of the previous group, then of the
current one. -/
def tickSelected (x : Phy) (i : TickInput) : List Bits :=
  (List.range x.params.dataBits).map fun pin =>
    wordOf (2 * x.params.phases) fun k =>
      let index := x.rot.getD (pin / 8) 0 + k
      if index < 2 * x.params.phases then bitAt (x.bsPrev.getD pin []) index
      else bitAt ((tickGroups x i).getD pin []) (index - 2 * x.params.phases)

/-- `r` of R202 step 4: the oldest groups of `bs_pipe`, or the selection when `BITSLIP_DEPTH = 1`. -/
def tickAligned (x : Phy) (i : TickInput) : List Bits :=
  if x.params.bitslipDepth = 1 then tickSelected x i else x.bsPipe.getLastD []

/-- A tap or rotation of R202 step 6: zeroed, stepped modulo `m`, or kept. -/
def tickCounter (x : Phy) (m : Nat) (rst inc : Bool) (v : List Nat) (lane : Nat) : Nat :=
  if bitAt x.laneSelect lane = true ∧ rst = true then 0
  else if bitAt x.laneSelect lane = true ∧ inc = true then (v.getD lane 0 + 1) % m
  else v.getD lane 0

/-- `X'` of 46_system_tick.md R202: every element at once, from the pre-state `x` and the inputs. -/
def tickNext (x : Phy) (i : TickInput) : Phy :=
  { params := x.params, settings := x.settings,
    laneSelect :=
      if bitAt i.ctl 9 = true then selWdata (variantOf x.params) i.ctl else x.laneSelect,
    inTap := (List.range (lanesOf x.params)).map
      (tickCounter x (2 ^ x.params.tapBits) (bitAt i.ctl 0) (bitAt i.ctl 1) x.inTap),
    outTap := if x.params.hasOdelay = true then
        (List.range (lanesOf x.params)).map
          (tickCounter x (2 ^ x.params.tapBits) (bitAt i.ctl 4) (bitAt i.ctl 5) x.outTap)
      else [],
    rot := (List.range (lanesOf x.params)).map
      (tickCounter x (2 * x.params.phases) (bitAt i.ctl 2) (bitAt i.ctl 3) x.rot),
    wlevelEn := if bitAt i.ctl 7 = true then bitAt i.ctl 8 else x.wlevelEn,
    wrSr := (List.range (x.settings.writeLatency + 2)).map fun p =>
      if p = 0 then wrenOf x i else bitAt x.wrSr (p - 1),
    wrTail := bitAt x.wrSr (x.settings.writeLatency + 1),
    rdSr := (List.range (x.settings.readLatency - 1)).map fun p =>
      if p = 0 then rdenOf x i else bitAt x.rdSr (p - 1),
    bsPrev := tickGroups x i,
    serPipe := (tickDrive x i :: x.serPipe).take x.params.serDepth,
    desPipe := (sampledOf x.params i :: x.desPipe).take x.params.desDepth,
    bsPipe := (tickSelected x i :: x.bsPipe).take (x.params.bitslipDepth - 1) }

/-- `O` of 46_system_tick.md R202 and R201, over the earlier outputs for what a tick does not drive. -/
def tickOut (x : Phy) (i : TickInput) (o : Outputs) : Outputs :=
  { o with
    pads := padsOf (if x.params.serDepth = 0 then tickDrive x i
      else x.serPipe.getLastD (tickDrive x i)),
    rddata := rddataOf x.params (tickAligned x i),
    rddataValid := List.replicate x.params.phases
      (bitAt x.rdSr (x.settings.readLatency - 2) || (x.params.hasWlevel && x.wlevelEn)),
    busValue := i.busRead.map fun r => calRead x r.toNat }

/-- No word of the inputs is refused (46_system_tick.md R202 step 0). -/
def Accepted (x : Phy) (i : TickInput) : Prop :=
  ctlRefusal (variantOf x.params) i.ctl = none ∧
    ∀ r, i.busRead = some r → registerPresent (variantOf x.params) r.toNat = true

/-- `s` with the ticks of `inputs` as all of its script: a run of the block over given inputs. The script is the
model's choice, log entry 2 (DESIGN CHOICE). -/
def withTicks (s : State) (inputs : List TickInput) : State := s.withScript (inputs.map .tick)

/-- The state after the first `k` ticks of `inputs`, if all of them complete. -/
def afterTicks (s : State) (inputs : List TickInput) (k : Nat) : Result :=
  Host.Core.run Sys2Proof.core k (withTicks s inputs)

end Sys2Proof.Machine
end

