-- ==== Sys2Proof/WellFormed.lean ====
section
/-! DEFINITION. Which operations exist in a variant of the block, with operands of the right width. -/

namespace Sys2Proof

/-- An operation that 30_encoding.md R80 gives this variant, with its operand as wide as R71 says. -/
def Instr.wellFormed (v : Variant) : Instr → Bool
  | .sel wdata => wdata.length == v.lanes
  | .wdlyRst => v.hasOdelay
  | .wdlyInc => v.hasOdelay
  | .wlevelStb => v.hasWlevel
  | .wlevelEn _ => v.hasWlevel
  | .rdWlevelEn => v.hasWlevel
  | .resolve | .sysLatency | .phaseAssign | .buildSettings => true
  | .rdlyRst | .rdlyInc | .bsRst | .bsInc | .calNop => true
  | .wren | .rden => true
  | .serCmd | .serDq | .serDm | .serDqs | .tristate | .serPipe | .desDq | .rdAssemble => true
  | .wrTrack | .oe | .oeDqs | .dqsPre | .dqsPost | .rdTrack | .rdValid | .bsAlign => true
  | .rdLaneSelect | .rdTapBase => true

end Sys2Proof
end

