-- ==== Sys2Proof/Certificates/Slice0/Obligations.lean ====
section
/-! DEFINITION. The statements about the model that are to be proved, one proposition each. -/

open Sys2Proof Sys2Proof.Machine

/-! ## Construction -/

/-- 40_construction.md R101: `RESOLVE` raises `UnsupportedConfiguration` with the recorded value of
60_exceptions.md R211 for an unknown family; for a positive clock period and a legal table it selects the first
entry with `clock_period * f >= 2`, over exact rationals, raises the error when no entry serves the period, and
at 800 MT/s gives DDR3 `(6, 5)` (R110). Its word is the selector `fn = 0`. That raising an error leaves the
error value in place of whatever instance stood, with no wires and no outputs (`raiseConstruct`), is the
model's reading of 00_scope.md R15 and 60_exceptions.md R210, log entries 7 and 20 (DEDUCED). On all other
operands, where no rule states the result, it completes with some result or with that error: the model's
choice, log entry 25 (DESIGN CHOICE). -/
def Obligations.ResolveSelectsFirstServingEntry : Prop :=
  (∀ v : Variant, decode v (.fn 0#2) = .ok [.resolve]) ∧
  ∀ s : State,
    (binsOf s.args.params.clCwlTable s.args.family = none →
      exec .resolve s = .next (raiseConstruct s (.unsupportedConfiguration s.args.family none))) ∧
    (ratioPositive s.args.clockPeriod = true → tableLegal s.args.params.clCwlTable = true →
      (∀ (bins : List SpeedBin) (k : Nat) (hk : k < bins.length),
        binsOf s.args.params.clCwlTable s.args.family = some bins →
        2 ≤ ratioValue s.args.clockPeriod * ratioValue bins[k].f →
        (∀ (j : Nat) (hj : j < k), ratioValue s.args.clockPeriod * ratioValue bins[j].f < 2) →
        exec .resolve s =
          .next { s with out := { s.out with resolved := some (bins[k].cl, bins[k].cwl) } }) ∧
      (∀ bins : List SpeedBin, binsOf s.args.params.clCwlTable s.args.family = some bins →
        (∀ b ∈ bins, ratioValue s.args.clockPeriod * ratioValue b.f < 2) →
        exec .resolve s = .next (raiseConstruct s
          (.unsupportedConfiguration s.args.family (some s.args.clockPeriod)))) ∧
      (s.args.family = .ddr3 → ratioValue s.args.clockPeriod = 2 / 800000000 →
        exec .resolve s = .next { s with out := { s.out with resolved := some (6, 5) } })) ∧
    ((binsOf s.args.params.clCwlTable s.args.family).isSome = true →
      ratioPositive s.args.clockPeriod = false ∨ tableLegal s.args.params.clCwlTable = false →
      (∃ r, exec .resolve s = .next { s with out := { s.out with resolved := some r } }) ∨
        exec .resolve s = .next (raiseConstruct s
          (.unsupportedConfiguration s.args.family (some s.args.clockPeriod))))

/-- 40_construction.md R103: for one family and periods `p1 <= p2` that both resolve, the entry selected
for `p1` does not come before the one selected for `p2`, and both results are drawn from the table. -/
def Obligations.ResolveIsMonotone : Prop :=
  ∀ (table : List (Family × List SpeedBin)) (family : Family) (bins : List SpeedBin) (p1 p2 : Ratio)
    (r1 r2 : Int × Int),
    binsOf table family = some bins → (∀ b ∈ bins, ratioPositive b.f = true) →
    ratioPositive p1 = true → ratioPositive p2 = true → ratioValue p1 ≤ ratioValue p2 →
    resolve table family p1 = .ok r1 → resolve table family p2 = .ok r2 →
    ∃ (i1 i2 : Nat) (h1 : i1 < bins.length) (h2 : i2 < bins.length),
      i2 ≤ i1 ∧ r1 = (bins[i1].cl, bins[i1].cwl) ∧ r2 = (bins[i2].cl, bins[i2].cwl) ∧
      2 ≤ ratioValue p1 * ratioValue bins[i1].f ∧
      (∀ (j : Nat) (hj : j < i1), ratioValue p1 * ratioValue bins[j].f < 2) ∧
      2 ≤ ratioValue p2 * ratioValue bins[i2].f ∧
      ∀ (j : Nat) (hj : j < i2), ratioValue p2 * ratioValue bins[j].f < 2

/-- 40_construction.md R105: `SYS_LATENCY` answers `ceil(latency / N)` and changes nothing else. Its word
is the selector `fn = 1`. For `N = 0`, where 00_scope.md R14 defines no `ceil`, it completes with some value:
that clause is the model's choice, log entry 8 (DESIGN CHOICE). -/
def Obligations.SysLatencyIsTheCeiling : Prop :=
  (∀ v : Variant, decode v (.fn 1#2) = .ok [.sysLatency]) ∧
  ∀ s : State, ∃ q : Int,
    exec .sysLatency s = .next { s with out := { s.out with sysLatency := some q } } ∧
    (0 < s.args.n → IsCeilDiv s.args.latency s.args.n q)

/-- 40_construction.md R106: `PHASE_ASSIGN` answers `(cmd_phase, data_phase)` and changes nothing else;
its two corner cases follow (the range of `data_phase` is the spec's own inference). Its word is the
selector `fn = 2`. For `N = 0`, where 00_scope.md R14 defines no `mod`, `cmd_phase` is some value: that clause
is the model's choice, log entry 8 (DESIGN CHOICE). -/
def Obligations.PhaseAssignPlacesCommandOnePhaseEarlier : Prop :=
  (∀ v : Variant, decode v (.fn 2#2) = .ok [.phaseAssign]) ∧
  ∀ s : State, ∃ cmd : Int,
    exec .phaseAssign s = .next { s with out := { s.out with
      phases := some (cmd, s.args.sys * s.args.n - s.args.latency) } } ∧
    (0 < s.args.n → IsMod (s.args.sys * s.args.n - s.args.latency - 1) s.args.n cmd) ∧
    (0 < s.args.n → 1 ≤ s.args.latency → IsCeilDiv s.args.latency s.args.n s.args.sys →
      0 ≤ s.args.sys * s.args.n - s.args.latency ∧
        s.args.sys * s.args.n - s.args.latency ≤ s.args.n - 1) ∧
    (0 < s.args.n → s.args.sys * s.args.n - s.args.latency = 0 → cmd = s.args.n - 1)

/-- 40_construction.md R108 steps 1 to 4 and 60_exceptions.md R215: the first failing check decides the
error, with what R211 and R213 record. That raising it leaves the error value in place even of a live
instance, with no wires and no outputs (`raiseConstruct`), is the model's reading of 60_exceptions.md R210 and
R216, log entry 7 (DEDUCED). -/
def Obligations.BuildSettingsReportsFirstFailingStep : Prop :=
  ∀ (s : State) (p : Params), s.args.params = p → paramsLegal p = true →
    (p.phases ≠ 2 → p.phases ≠ 4 →
      exec .buildSettings s = .next (raiseConstruct s (.unsupportedPhaseCount p.phases none))) ∧
    (p.phases = 2 ∨ p.phases = 4 → binsOf p.clCwlTable p.family = none →
      exec .buildSettings s = .next (raiseConstruct s (.unsupportedConfiguration p.family none))) ∧
    (p.phases = 2 ∨ p.phases = 4 → (binsOf p.clCwlTable p.family).isSome = true →
      (p.family, p.phases) ∈ p.phaseBad →
      exec .buildSettings s =
        .next (raiseConstruct s (.unsupportedPhaseCount p.phases (some p.family)))) ∧
    (∀ bins, p.phases = 2 ∨ p.phases = 4 → binsOf p.clCwlTable p.family = some bins →
      (p.family, p.phases) ∉ p.phaseBad →
      (∀ b ∈ bins, ratioValue b.f < 2 * (p.phases * ratioValue p.fSys)) →
      exec .buildSettings s = .next (raiseConstruct s
        (.unsupportedConfiguration p.family (some (ioPeriod p.phases p.fSys)))))

/-- 40_construction.md R107 and R108 steps 5 to 9: with an entry selected, either a clause of step 8 fires
and construction fails with `InvalidLatencyConfiguration`, or an instance with these constants starts; for
DDR3 with four phases at 800 MT/s, whatever the legal table, `(cl, cwl) = (6, 5)` and both latencies are 2
ticks (R110). That the error value or the new instance stands in place even of a live instance
(`raiseConstruct`, `startInstance`) is the model's reading of 60_exceptions.md R210 and R216 and of
70_reset_and_hazards.md R231, log entries 7 and 19 (DEDUCED). -/
def Obligations.BuildSettingsPlansLatencies : Prop :=
  ∀ (s : State) (p : Params) (cl cwl clSys cwlSys : Int), s.args.params = p → paramsLegal p = true →
    p.phases = 2 ∨ p.phases = 4 → (p.family, p.phases) ∉ p.phaseBad →
    resolve p.clCwlTable p.family (ioPeriod p.phases p.fSys) = .ok (cl, cwl) →
    IsCeilDiv cl p.phases clSys → IsCeilDiv cwl p.phases cwlSys →
    (cl < 1 ∨ cwl < 1 ∨ (p.serDepth : Int) + clSys + p.desDepth + p.bitslipDepth - 1 ≤ 1 ∨
        (∃ d, p.dqsSysLatency = some d ∧ (d < 1 ∨ cwlSys < (d : Int))) →
      exec .buildSettings s = .next (raiseConstruct s .invalidLatencyConfiguration)) ∧
    (1 ≤ cl → 1 ≤ cwl → 1 < (p.serDepth : Int) + clSys + p.desDepth + p.bitslipDepth - 1 →
      (∀ d, p.dqsSysLatency = some d → 1 ≤ d ∧ (d : Int) ≤ cwlSys) →
      ∃ k : PhySettings, exec .buildSettings s = .next (startInstance s p k) ∧
        k.family = p.family ∧ k.dfiDatabits = 2 * p.dataBits ∧ k.nRanks = p.nRanks ∧
        k.nPhases = p.phases ∧ (k.cl : Int) = cl ∧ (k.cwl : Int) = cwl ∧
        (k.rdphase : Int) = clSys * p.phases - cl ∧ (k.wrphase : Int) = cwlSys * p.phases - cwl ∧
        IsMod ((k.rdphase : Int) - 1) p.phases k.rdcmdphase ∧
        IsMod ((k.wrphase : Int) - 1) p.phases k.wrcmdphase ∧
        (k.readLatency : Int) = p.serDepth + clSys + p.desDepth + p.bitslipDepth - 1 ∧
        (k.writeLatency : Int) = cwlSys) ∧
    (p.family = .ddr3 → p.phases = 4 → ratioValue p.fSys = 100000000 →
      cl = 6 ∧ cwl = 5 ∧ clSys = 2 ∧ cwlSys = 2)

/-- 40_construction.md R109: what a successful `BUILD_SETTINGS` guarantees. -/
def Obligations.BuiltSettingsAreInRange : Prop :=
  ∀ (p : Params) (k : PhySettings), buildSettings p = .ok k →
    k.rdphase < p.phases ∧ k.rdcmdphase < p.phases ∧ k.wrphase < p.phases ∧ k.wrcmdphase < p.phases ∧
    2 ≤ k.readLatency ∧ 1 ≤ k.writeLatency ∧
    1 ≤ dqsSysLatencyOf p k.writeLatency ∧ dqsSysLatencyOf p k.writeLatency ≤ k.writeLatency

/-- 60_exceptions.md R210: after a construction error no tick can be run, by any operation, by a tick of
the script or by an idle tick; a further call of `BUILD_SETTINGS` with legal parameters that have settings
builds an instance (R217). That a tick answers the fault
`noInstance`, and that a later call builds in place of the error value, is the model's reading of R210, R216 and
R217, log entry 7 (DEDUCED); the script, and that an empty one is an idle tick, is the model's choice, log
entry 2 (DESIGN CHOICE). -/
def Obligations.NoTickRunsAfterConstructionError : Prop :=
  ∀ (s : State) (e : ConstructError), s.block = .failed e →
    (∀ i : Instr, ¬ IsConstruct i → exec i s = .fault .noInstance) ∧
    (∀ i rest, s.script = .tick i :: rest → step s = .fault .noInstance) ∧
    (s.script = [] → step s = .fault .noInstance) ∧
    (∀ args k rest, s.script = .construct 3#2 args :: rest → paramsLegal args.params = true →
      buildSettings args.params = .ok k →
      ∃ t, step s = .next t ∧ t.script = rest ∧
        t.block = .live (powerOnPhy (s.builds + 1) args.params k))

/-- 60_exceptions.md R214, 40_construction.md R110: parameters outside the preconditions of construction
are refused by `BUILD_SETTINGS`. R214 and U17 list examples ("and so on"); that `F_IO_REF` and every `f` must be positive, that the lists of all families must be
ascending, and that a table without the attested row of R110 is refused is the model's, log entry 10
(DEDUCED). -/
def Obligations.IllFormedParametersAreRefused : Prop :=
  ∀ s : State,
    ((s.args.params.dataBits = 0 ∨ s.args.params.dataBits % 8 ≠ 0 ∨ s.args.params.addrBits = 0 ∨
      s.args.params.bankBits = 0 ∨ s.args.params.nRanks = 0 ∨
      ratioPositive s.args.params.fSys = false ∨ ratioPositive s.args.params.fIoRef = false ∨
      2 ^ s.args.params.tapBits ≤ s.args.params.tapBase ∨ s.args.params.bitslipDepth < 1 ∨
      (∃ w, s.args.params.dqsPattern = some w ∧ w.length ≠ 2 * s.args.params.phases) ∨
      (∃ w, s.args.params.wlevelPattern = some w ∧ w.length ≠ 2 * s.args.params.phases) ∨
      tableLegal s.args.params.clCwlTable = false) →
      exec .buildSettings s = .refused .illFormedParameters) ∧
    ((∃ e ∈ s.args.params.clCwlTable, binsAscending e.2 = false) ∨
      (∀ bins, binsOf s.args.params.clCwlTable .ddr3 = some bins →
        ∀ b ∈ bins, ¬ (ratioValue b.f = 800000000 ∧ b.cl = 6 ∧ b.cwl = 5)) →
      tableLegal s.args.params.clCwlTable = false)

/-- 70_reset_and_hazards.md R230: every element of a newly built instance that has a power-on value holds
it, every register has its length, and the instance is at tick 0. That it
stands in place of whatever instance stood before, at tick 0, is the model's reading of 20_memory.md R68 and
70_reset_and_hazards.md R231, log entry 19 (DEDUCED). -/
def Obligations.NewInstanceIsInPowerOnState : Prop :=
  ∀ (s : State) (k : PhySettings), paramsLegal s.args.params = true →
    buildSettings s.args.params = .ok k →
    ∃ x t, exec .buildSettings s = .next t ∧ t.block = .live x ∧ t.tick = 0 ∧
      x.params = s.args.params ∧ x.settings = k ∧
      x.laneSelect = List.replicate (lanesOf x.params) false ∧
      x.inTap = List.replicate (lanesOf x.params) 0 ∧
      (x.params.hasOdelay = true → x.outTap = List.replicate (lanesOf x.params) 0) ∧
      x.rot = List.replicate (lanesOf x.params) 0 ∧
      x.wlevelEn = false ∧
      x.wrSr = List.replicate (k.writeLatency + 2) false ∧ x.wrTail = false ∧
      x.rdSr = List.replicate (k.readLatency - 1) false ∧
      (∀ e ∈ x.serPipe, (∀ q ∈ e.dq, q.en = false) ∧ ∀ q ∈ e.dqs, q.en = false) ∧
      PhyInv x

/-! ## Calibration operations -/

/-- 44_delay_cal.md R174, R175: the input delay tap of every selected lane is zeroed, or stepped modulo
`2^TAP_BITS`; nothing else changes. -/
def Obligations.InputTapPulsesActOnSelectedLanes : Prop :=
  ∀ (s : State) (x : Phy), s.block = .live x → PhyInv x →
    (∃ taps, exec .rdlyRst s = .next { s with block := .live { x with inTap := taps } } ∧
      taps.length = lanesOf x.params ∧
      ∀ l < lanesOf x.params, taps.getD l 0 =
        if bitAt x.laneSelect l = true then 0 else x.inTap.getD l 0) ∧
    (∃ taps, exec .rdlyInc s = .next { s with block := .live { x with inTap := taps } } ∧
      taps.length = lanesOf x.params ∧
      ∀ l < lanesOf x.params, taps.getD l 0 =
        if bitAt x.laneSelect l = true then (x.inTap.getD l 0 + 1) % 2 ^ x.params.tapBits
        else x.inTap.getD l 0)

/-- 44_delay_cal.md R178, R179: the same for the output delay taps; without `HAS_ODELAY` the operations
do not exist and are refused (30_encoding.md R77(a)). That the meaning itself refuses, and
under which name, is the model's choice, log entry 21 (DESIGN CHOICE). -/
def Obligations.OutputTapPulsesActOnSelectedLanes : Prop :=
  ∀ (s : State) (x : Phy), s.block = .live x → PhyInv x →
    (x.params.hasOdelay = true →
      (∃ taps, exec .wdlyRst s = .next { s with block := .live { x with outTap := taps } } ∧
        taps.length = lanesOf x.params ∧
        ∀ l < lanesOf x.params, taps.getD l 0 =
          if bitAt x.laneSelect l = true then 0 else x.outTap.getD l 0) ∧
      (∃ taps, exec .wdlyInc s = .next { s with block := .live { x with outTap := taps } } ∧
        taps.length = lanesOf x.params ∧
        ∀ l < lanesOf x.params, taps.getD l 0 =
          if bitAt x.laneSelect l = true then (x.outTap.getD l 0 + 1) % 2 ^ x.params.tapBits
          else x.outTap.getD l 0)) ∧
    (x.params.hasOdelay = false →
      exec .wdlyRst s = .refused .absentOperation ∧ exec .wdlyInc s = .refused .absentOperation)

/-- 43_bitslip.md R163, R164: the rotation of every selected lane is zeroed, or stepped modulo `2N`;
nothing else changes. -/
def Obligations.RotationPulsesActOnSelectedLanes : Prop :=
  ∀ (s : State) (x : Phy), s.block = .live x → PhyInv x →
    (∃ rots, exec .bsRst s = .next { s with block := .live { x with rot := rots } } ∧
      rots.length = lanesOf x.params ∧
      ∀ l < lanesOf x.params, rots.getD l 0 =
        if bitAt x.laneSelect l = true then 0 else x.rot.getD l 0) ∧
    (∃ rots, exec .bsInc s = .next { s with block := .live { x with rot := rots } } ∧
      rots.length = lanesOf x.params ∧
      ∀ l < lanesOf x.params, rots.getD l 0 =
        if bitAt x.laneSelect l = true then (x.rot.getD l 0 + 1) % (2 * x.params.phases)
        else x.rot.getD l 0)

/-- 44_delay_cal.md R173 and 30_encoding.md R79: `SEL` writes the mask and nothing else, `CAL_NOP` changes
nothing. -/
def Obligations.SelWritesTheMaskAndCalNopNothing : Prop :=
  ∀ (s : State) (x : Phy), s.block = .live x →
    (∀ m : Bits, m.length = lanesOf x.params →
      exec (.sel m) s = .next { s with block := .live { x with laneSelect := m } }) ∧
    exec .calNop s = .next s

/-- 45_write_leveling.md R190, R191, R196: `WLEVEL_EN` writes `wlevel_en` and nothing else; `WLEVEL_STB`
writes no state, and marks the strobe word of its tick only in leveling mode; without `HAS_WLEVEL` both are
refused. That the meaning itself refuses, and
under which name, is the model's choice, log entry 21 (DESIGN CHOICE). The wire that marks
the strobe word is log entry 17 (DEDUCED). -/
def Obligations.LevelingOperationsWriteModeAndStrobe : Prop :=
  ∀ (s : State) (x : Phy), s.block = .live x →
    (x.params.hasWlevel = true →
      (∀ b : Bool, exec (.wlevelEn b) s = .next { s with block := .live { x with wlevelEn := b } }) ∧
      (x.wlevelEn = true → exec .wlevelStb s = .next { s with sig := { s.sig with strobe := true } }) ∧
      (x.wlevelEn = false → exec .wlevelStb s = .next s)) ∧
    (x.params.hasWlevel = false →
      (∀ b : Bool, exec (.wlevelEn b) s = .refused .absentOperation) ∧
      exec .wlevelStb s = .refused .absentOperation)

/-- 44_delay_cal.md R182: the three bus reads return `lane_select`, `wlevel_en` and `TAP_BASE` as numbers
and change nothing but the bus value; register 7 exists only with `HAS_WLEVEL` (20_memory.md R61). That the meaning itself refuses, and
under which name, is the model's choice, log entry 21 (DESIGN CHOICE). -/
def Obligations.BusReadsReturnStoredValues : Prop :=
  ∀ (s : State) (x : Phy), s.block = .live x →
    (∃ v, exec .rdLaneSelect s = .next { s with out := { s.out with busValue := some v } } ∧
      ∀ l, v.testBit l = bitAt x.laneSelect l) ∧
    (x.params.hasWlevel = true →
      exec .rdWlevelEn s = .next { s with out := { s.out with
        busValue := some (if x.wlevelEn = true then 1 else 0) } }) ∧
    (x.params.hasWlevel = false → exec .rdWlevelEn s = .refused .absentRegister) ∧
    exec .rdTapBase s = .next { s with out := { s.out with busValue := some x.params.tapBase } }

/-! ## Encoding -/

/-- Decoding the word of any well-formed operation gives the operations that the word selects: the
operation alone, or all operations of a tick for the empty word (30_encoding.md R71, R72, R78, R83). -/
def Obligations.DecodeOfEncodeSelectsTheOperation : Prop :=
  ∀ (v : Variant) (i : Instr), i.wellFormed v = true →
    i ∈ selectedWith i ∧ decode v (encode v i) = .ok (selectedWith i)

/-- 30_encoding.md R70, R71, R77(e): every choice of operations present in the variant, with no reset and
increment of one resource together, is carried by one control word, and decoding that word gives exactly
these operations; no operation at all is `CAL_NOP` (R79). -/
def Obligations.ControlWordCarriesEveryAllowedCombination : Prop :=
  ∀ (v : Variant) (enable : Bool) (mask : Bits) (ops : List Instr), mask.length = v.lanes →
    ops.Sublist (ctlCanon enable mask) → (∀ i ∈ ops, i.wellFormed v = true) → NoConflict ops →
    decode v (.ctl (encodeCtl v ops)) = .ok (if ops = [] then [.calNop] else ops)

/-- 30_encoding.md R71, R77(d): encoding the operations that a control word selects gives the word back in
every bit that is not an ignored operand bit, and 0 in those. -/
def Obligations.EncodeOfDecodeKeepsEveryReadBit : Prop :=
  ∀ (v : Variant) (w : Bits) (ops : List Instr), decode v (.ctl w) = .ok ops →
    (∀ j, j < 8 ∨ j = 9 → bitAt (encodeCtl v ops) j = bitAt w j) ∧
    bitAt (encodeCtl v ops) 8 = (bitAt w 7 && bitAt w 8) ∧
    ∀ l < v.lanes, bitAt (encodeCtl v ops) (10 + l) = (bitAt w 9 && bitAt w (10 + l))

/-- 30_encoding.md R77(d): control words that differ only in operand bits whose write-enable is 0 have the
same effect on the block and on its outputs. -/
def Obligations.IgnoredOperandBitsHaveNoEffect : Prop :=
  ∀ (s t : State) (x : Phy) (i : TickInput) (w : Bits), s.block = .live x →
    x.params.hasWlevel = true → SameCtl (variantOf x.params) i.ctl w →
    runTick s i = .next t →
    ∃ u, runTick s { i with ctl := w } = .next u ∧ u.block = t.block ∧ u.out = t.out ∧
      u.sig = t.sig ∧ u.tick = t.tick

/-- 30_encoding.md R78: a bus write of a present register becomes a control word with exactly the named
operation, a write of register 9 one with none; a number that names no present register is refused. -/
def Obligations.BusWriteBecomesOneOperation : Prop :=
  ∀ (v : Variant) (r : BitVec 4) (value : Nat),
    (registerPresent v r.toNat = true →
      ∃ w, busWriteCtl v r value = .ok w ∧ w.length = 10 + v.lanes ∧
        decode v (.ctl w) = .ok [
          if r = 0#4 then .sel (bitsOfNat v.lanes value)
          else if r = 1#4 then .rdlyRst else if r = 2#4 then .rdlyInc
          else if r = 3#4 then .bsRst else if r = 4#4 then .bsInc
          else if r = 5#4 then .wdlyRst else if r = 6#4 then .wdlyInc
          else if r = 7#4 then .wlevelEn (value.testBit 0) else if r = 8#4 then .wlevelStb
          else .calNop]) ∧
    (registerPresent v r.toNat = false → busWriteCtl v r value = .error .absentRegister)

/-- 95_test_vectors.md V1, `LANES = 2`: written-out words decode to the operations they stand for. -/
def Obligations.WrittenWordsDecode : Prop :=
  decode resetVariant (.ctl (bitsOfNat 12 0xE02)) = .ok [.rdlyInc, .sel [true, true]] ∧
  decode resetVariant (.ctl (bitsOfNat 12 0x600)) = .ok [.sel [true, false]] ∧
  decode resetVariant (.ctl (bitsOfNat 12 0x180)) = .ok [.wlevelEn true] ∧
  decode resetVariant (.ctl (bitsOfNat 12 0x015)) = .ok [.rdlyRst, .bsRst, .wdlyRst] ∧
  decode resetVariant (.ctl (bitsOfNat 12 0xC00)) = .ok [.calNop] ∧
  decode resetVariant (.ctl (bitsOfNat 12 0x00C)) = .error .resetWithIncrement ∧
  decode resetVariant (.flow 3#2) = .ok [.wren, .rden] ∧
  decode resetVariant (.fn 2#2) = .ok [.phaseAssign] ∧
  decode resetVariant (.reg 9#4) = .ok [.rdTapBase]

/-! ## Flow control -/

/-- 42_flow_control.md R140, R150: the flow flags set the wires `wren(t)` and `rden(t)` of their tick and
nothing else. -/
def Obligations.FlowFlagsSetTheirWire : Prop :=
  ∀ (s : State) (x : Phy), s.block = .live x →
    exec .wren s = .next { s with sig := { s.sig with wren := true } } ∧
    exec .rden s = .next { s with sig := { s.sig with rden := true } }

/-- 42_flow_control.md R141: the write-enable register moves by one position and takes the current flag,
its last position moves into `wr_tail`. -/
def Obligations.WriteTrackingShifts : Prop :=
  ∀ (s : State) (x : Phy), s.block = .live x → PhyInv x →
    ∃ sr, exec .wrTrack s = .next { s with block := .live { x with
        wrSr := sr, wrTail := bitAt x.wrSr (x.settings.writeLatency + 1) } } ∧
      sr.length = x.settings.writeLatency + 2 ∧ bitAt sr 0 = s.sig.wren ∧
      ∀ p, 1 ≤ p → p ≤ x.settings.writeLatency + 1 → bitAt sr p = bitAt x.wrSr (p - 1)

/-- 42_flow_control.md R151: `rddata_valid` is the last position of `rd_sr`, or 1 in leveling mode, on
every phase; the register moves by one position and takes the current flag. -/
def Obligations.ReadTrackingShiftsAndShowsItsLastPosition : Prop :=
  ∀ (s : State) (x : Phy), s.block = .live x → PhyInv x →
    exec .rdValid s = .next { s with out := { s.out with
      rddataValid := List.replicate x.params.phases
        (if x.params.hasWlevel = true ∧ x.wlevelEn = true then true
         else bitAt x.rdSr (x.settings.readLatency - 2)) } } ∧
    ∃ sr, exec .rdTrack s = .next { s with block := .live { x with rdSr := sr } } ∧
      sr.length = x.settings.readLatency - 1 ∧ bitAt sr 0 = s.sig.rden ∧
      ∀ p, 1 ≤ p → p ≤ x.settings.readLatency - 2 → bitAt sr p = bitAt x.rdSr (p - 1)

/-- 42_flow_control.md R142 to R145: the four write-side flags over positions of the tracking register,
with the shorthands of 10_state.md R30 and R31. -/
def Obligations.WriteFlagsReadTheirPositions : Prop :=
  ∀ (s : State) (x : Phy) (wl d : Int), s.block = .live x → PhyInv x →
    wl = x.settings.writeLatency → d = dqsSysLatencyOf x.params x.settings.writeLatency →
    exec .oe s = .next { s with sig := { s.sig with
      oe := wrPos x s.sig.wren (wl - 1) || wrPos x s.sig.wren wl || wrPos x s.sig.wren (wl + 1) } } ∧
    exec .oeDqs s = .next { s with sig := { s.sig with
      oeDqs := s.sig.oe || (x.params.hasWlevel && x.wlevelEn) } } ∧
    exec .dqsPre s = .next { s with sig := { s.sig with
      dqsPre := wrPos x s.sig.wren (d - 2) && !wrPos x s.sig.wren d } } ∧
    exec .dqsPost s = .next { s with sig := { s.sig with
      dqsPost := wrPos x s.sig.wren (d + 2) && !wrPos x s.sig.wren d } }

/-! ## SerDes Bank and Bitslip Aligner -/

/-- 41_serdes.md R121: both slots of a phase carry the phase's bit, on every command and address pin that
exists; the words are the only thing that changes. -/
def Obligations.CommandPinsHoldThePhaseBit : Prop :=
  ∀ (s : State) (x : Phy), s.block = .live x →
    ∃ c : CmdWords, exec .serCmd s = .next { s with sig := { s.sig with cmd := c } } ∧
      CmdWf x.params c ∧
      ∀ p < x.params.phases, ∀ j, j = 2 * p ∨ j = 2 * p + 1 →
        (∀ k < x.params.addrBits, bitAt (c.a.getD k []) j = bitAt (phaseAt s.inp p).address k) ∧
        (∀ k < x.params.bankBits, bitAt (c.ba.getD k []) j = bitAt (phaseAt s.inp p).bank k) ∧
        bitAt (c.ras.getD 0 []) j = (phaseAt s.inp p).ras ∧
        bitAt (c.cas.getD 0 []) j = (phaseAt s.inp p).cas ∧
        bitAt (c.we.getD 0 []) j = (phaseAt s.inp p).we ∧
        (∀ k < x.params.nRanks, bitAt (c.cke.getD k []) j = bitAt (phaseAt s.inp p).cke k) ∧
        (∀ k < x.params.nRanks, bitAt (c.odt.getD k []) j = bitAt (phaseAt s.inp p).odt k) ∧
        (x.params.hasCs = true →
          ∀ k < x.params.nRanks, bitAt (c.cs.getD k []) j = bitAt (phaseAt s.inp p).cs k) ∧
        (x.params.hasReset = true → bitAt (c.reset.getD 0 []) j = (phaseAt s.inp p).reset)

/-- 41_serdes.md R122, R123: the even slot of a phase carries the low half of the phase's data or mask
word, the odd slot the high half; the words are the only thing that changes. -/
def Obligations.DataAndMaskPinsCarryBothHalves : Prop :=
  ∀ (s : State) (x : Phy), s.block = .live x →
    (∃ ws, exec .serDq s = .next { s with sig := { s.sig with dq := ws } } ∧
      WordsWf x.params.phases x.params.dataBits ws ∧
      ∀ p < x.params.phases, ∀ i < x.params.dataBits,
        bitAt (ws.getD i []) (2 * p) = bitAt (phaseAt s.inp p).wrdata i ∧
        bitAt (ws.getD i []) (2 * p + 1) = bitAt (phaseAt s.inp p).wrdata (x.params.dataBits + i)) ∧
    (∃ ws, exec .serDm s = .next { s with sig := { s.sig with dm := ws } } ∧
      WordsWf x.params.phases (lanesOf x.params) ws ∧
      ∀ p < x.params.phases, ∀ l < lanesOf x.params,
        bitAt (ws.getD l []) (2 * p) = bitAt (phaseAt s.inp p).wrdataMask l ∧
        bitAt (ws.getD l []) (2 * p + 1) =
          bitAt (phaseAt s.inp p).wrdataMask (lanesOf x.params + l))

/-- 41_serdes.md R124, R125: the strobe word, leveling first, then the zero windows, else the toggle
pattern, which by default is 1 in the even slots. -/
def Obligations.StrobeWordHasThreeSources : Prop :=
  ∀ (s : State) (x : Phy), s.block = .live x → PhyInv x →
    ∃ w, exec .serDqs s = .next { s with sig := { s.sig with dqs := w } } ∧
      w.length = 2 * x.params.phases ∧
      ((x.params.hasWlevel && x.wlevelEn) = true → s.sig.strobe = true →
        w = wlevelPatternOf x.params) ∧
      ((x.params.hasWlevel && x.wlevelEn) = true → s.sig.strobe = false → ∀ j, bitAt w j = false) ∧
      ((x.params.hasWlevel && x.wlevelEn) = false → (s.sig.dqsPre || s.sig.dqsPost) = true →
        ∀ j, bitAt w j = false) ∧
      ((x.params.hasWlevel && x.wlevelEn) = false → (s.sig.dqsPre || s.sig.dqsPost) = false →
        w = dqsPatternOf x.params ∧
        (x.params.dqsPattern = none →
          ∀ j < 2 * x.params.phases, bitAt w j = decide (j % 2 = 0)))

/-- 41_serdes.md R126, 20_memory.md R55: data pins are driven while `oe`, strobe pins while `oe_dqs`, all
other output pins always; nothing but the drive of the pins changes. -/
def Obligations.TristateFollowsTheEnables : Prop :=
  ∀ (s : State) (x : Phy), s.block = .live x →
    ∃ e : SerEntry, exec .tristate s = .next { s with sig := { s.sig with drive := e } } ∧
      (padsOf e).dq = s.sig.dq.map (fun w => if s.sig.oe = true then .driven w else .hiZ) ∧
      (padsOf e).dqs = List.replicate (lanesOf x.params)
        (if s.sig.oeDqs = true then .driven s.sig.dqs else .hiZ) ∧
      (padsOf e).dm = s.sig.dm.map .driven ∧ (padsOf e).a = s.sig.cmd.a.map .driven ∧
      (padsOf e).ba = s.sig.cmd.ba.map .driven ∧ (padsOf e).ras = s.sig.cmd.ras.map .driven ∧
      (padsOf e).cas = s.sig.cmd.cas.map .driven ∧ (padsOf e).we = s.sig.cmd.we.map .driven ∧
      (padsOf e).cke = s.sig.cmd.cke.map .driven ∧ (padsOf e).odt = s.sig.cmd.odt.map .driven ∧
      (padsOf e).cs = s.sig.cmd.cs.map .driven ∧ (padsOf e).reset = s.sig.cmd.reset.map .driven

/-- 10_state.md R35, 41_serdes.md R127: the entry of this tick enters `ser_pipe` and the oldest one is on
the pads; with `SER_DEPTH = 0` it is this tick's own. -/
def Obligations.SerializerDelayLineMovesOnePlace : Prop :=
  ∀ (s : State) (x : Phy), s.block = .live x → PhyInv x →
    ∃ line oldest, exec .serPipe s = .next { s with
        block := .live { x with serPipe := line }, out := { s.out with pads := padsOf oldest } } ∧
      line.length = x.params.serDepth ∧ line ++ [oldest] = s.sig.drive :: x.serPipe

/-- 10_state.md R36, 41_serdes.md R129: the deserializer samples the `2N` slots of every data pin, and
hands on the groups that entered `DES_DEPTH` ticks before. -/
def Obligations.DeserializerDelayLineMovesOnePlace : Prop :=
  ∀ (s : State) (x : Phy), s.block = .live x → PhyInv x →
    ∃ line oldest sampled, exec .desDq s = .next { s with
        block := .live { x with desPipe := line }, sig := { s.sig with group := oldest } } ∧
      line.length = x.params.desDepth ∧ line ++ [oldest] = sampled :: x.desPipe ∧
      WordsWf x.params.phases x.params.dataBits sampled ∧
      ∀ pin < x.params.dataBits, ∀ j < 2 * x.params.phases,
        bitAt (sampled.getD pin []) j = bitAt (s.inp.pinIn.getD pin []) j

/-- 43_bitslip.md R160, R161, 10_state.md R34, R37: the aligner selects `2N` consecutive bits of the
previous and the current group from the rotation of the pin's lane on, keeps the current group as its
window, and passes the selection through `bs_pipe`. -/
def Obligations.AlignerSelectsFromTheRotation : Prop :=
  ∀ (s : State) (x : Phy), s.block = .live x → PhyInv x →
    WordsWf x.params.phases x.params.dataBits s.sig.group →
    ∃ line oldest selected, exec .bsAlign s = .next { s with
        block := .live { x with bsPrev := s.sig.group, bsPipe := line },
        sig := { s.sig with aligned := oldest } } ∧
      line.length = x.params.bitslipDepth - 1 ∧ line ++ [oldest] = selected :: x.bsPipe ∧
      WordsWf x.params.phases x.params.dataBits selected ∧
      ∀ pin < x.params.dataBits, ∀ k < 2 * x.params.phases,
        bitAt (selected.getD pin []) k =
          if x.rot.getD (pin / 8) 0 + k < 2 * x.params.phases then
            bitAt (x.bsPrev.getD pin []) (x.rot.getD (pin / 8) 0 + k)
          else bitAt (s.sig.group.getD pin [])
            (x.rot.getD (pin / 8) 0 + k - 2 * x.params.phases)

/-- 43_bitslip.md R162: a word that begins at bit index `r` of one group and ends in the next is what the
aligner selects when the rotation is `r`. -/
def Obligations.RotationRecoversAnOffsetWord : Prop :=
  ∀ (n r : Nat) (prev current word : Bits), r < 2 * n → prev.length = 2 * n →
    current.length = 2 * n → word.length = 2 * n →
    (∀ k, k < 2 * n - r → bitAt prev (r + k) = bitAt word k) →
    (∀ k, k < r → bitAt current k = bitAt word (2 * n - r + k)) →
    alignWord n r (alignBuffer prev current) = word

/-- 41_serdes.md R130: the read-data words hold the even bits of the aligned groups in their low half and
the odd bits in their high half. -/
def Obligations.ReadDataIsAssembledFromTheGroups : Prop :=
  ∀ (s : State) (x : Phy), s.block = .live x →
    ∃ ws, exec .rdAssemble s = .next { s with out := { s.out with rddata := ws } } ∧
      ws.length = x.params.phases ∧
      ∀ p < x.params.phases, (ws.getD p []).length = 2 * x.params.dataBits ∧
        ∀ i < x.params.dataBits,
          bitAt (ws.getD p []) i = bitAt (s.sig.aligned.getD i []) (2 * p) ∧
          bitAt (ws.getD p []) (x.params.dataBits + i) = bitAt (s.sig.aligned.getD i []) (2 * p + 1)

/-- 41_serdes.md R130 ("R122 read backwards"): assembling the serial words of the data pins gives back the
`wrdata` word of every phase. -/
def Obligations.AssemblingSerializedDataGivesItBack : Prop :=
  ∀ (p : Params) (i : TickInput) (ph : Nat), ph < p.phases →
    (phaseAt i ph).wrdata.length = 2 * p.dataBits →
    (rddataOf p (dqWordsOf p i)).getD ph [] = (phaseAt i ph).wrdata

/-! ## The tick -/

/-- A step with a construction stimulus is `exec` of the function its selector names, with the stimulus
taken from the script and its operands presented. What `fn` selects is 30_encoding.md R70 and R83; that a
step takes its stimulus from `State.script` and its operands stand in `State.args` is the model's choice, log
entries 2 and 8 (DESIGN CHOICE). -/
def Obligations.StepRunsTheConstructionFunction : Prop :=
  ∀ (s : State) (fn : BitVec 2) (args : ConstructArgs) (rest : List Stimulus) (i : Instr),
    s.script = .construct fn args :: rest →
    decode resetVariant (.fn fn) = .ok [i] →
    step s = exec i { s with script := rest, args := args }

/-- A step with a tick stimulus is the sequence of `exec` of every operation its words select
(30_encoding.md R70, 46_system_tick.md R202), over the state with the inputs sampled and no wire set; then the
tick index advances. With an empty script the tick is the idle one. The script and the idle tick are the
model's choice, log entry 2 (DESIGN CHOICE); the order, with the bus read first, `WLEVEL_STB` before the
operations of `TICK` and `SEL` last, is the model's, log entry 1 (DEDUCED). -/
def Obligations.StepRunsTheSelectedOperations : Prop :=
  ∀ (s : State) (x : Phy) (i : TickInput) (rest : List Stimulus) (cal bus : List Instr),
    s.block = .live x →
    (s.script = .tick i :: rest ∨ (s.script = [] ∧ rest = [] ∧ i = idleInputOf s)) →
    decode (variantOf x.params) (.ctl i.ctl) = .ok cal →
    (match i.busRead with
      | none => bus = []
      | some r => decode (variantOf x.params) (.reg r) = .ok bus) →
    step s =
      match runOps
          (bus ++ decodeFlow (flowWord x i) ++ cal.filter (fun c => decide (c = .wlevelStb)) ++ tickOrder ++
            cal.filter fun c => !decide (c = .wlevelStb))
          { s with script := rest, inp := i, sig := Signals.idle,
                   out := { s.out with busValue := i.busRead.map fun _ => 0 } } with
      | .next t => .next { t with tick := t.tick + 1 }
      | .fault f => .fault f
      | .refused r => .refused r

/-- 46_system_tick.md R202: the operations run one after another have exactly the effect of the
simultaneous step function `step(X, I) -> (X', O)`. The sequence is the model's, log entry 1 (DEDUCED); that the
inputs come from `State.script` and that the results of construction calls stay among the outputs is the
model's choice, log entries 2 and 6 (DESIGN CHOICE). -/
def Obligations.TickIsTheSimultaneousStep : Prop :=
  ∀ (s : State) (x : Phy) (i : TickInput) (rest : List Stimulus), s.block = .live x → PhyInv x →
    s.script = .tick i :: rest → Accepted x i →
    ∃ t, step s = .next t ∧ t.block = .live (tickNext x i) ∧ t.out = tickOut x i s.out ∧
      t.sig.drive = tickDrive x i ∧ t.script = rest ∧ t.inp = i ∧ t.args = s.args ∧
      t.tick = s.tick + 1 ∧ t.builds = s.builds

/-- 46_system_tick.md R204: no step, tick or construction, leaves the invariants of 10_state.md. That a step is a tick or
a construction call of the script is the model's choice, log entry 2 (DESIGN CHOICE). -/
def Obligations.EveryStepKeepsTheInvariant : Prop :=
  ∀ s t : State, Inv s → step s = .next t → Inv t

/-- The state after reset meets the invariant. The instance it holds is the model's choice (log entry 3),
its free power-on words are log entry 4. -/
def Obligations.ResetMeetsTheInvariant : Prop :=
  Inv State.reset ∧ ∃ x, State.reset.block = .live x

/-- 46_system_tick.md R204: a tick is defined for every instance that meets the invariants and every input
whose words are not refused, and the next instance meets them again. The second clause, that a step with an
empty script completes as well, rests on the idle tick, the model's choice, log entry 2 (DESIGN CHOICE). -/
def Obligations.TickIsTotalOnAcceptedInputs : Prop :=
  ∀ (s : State) (x : Phy), s.block = .live x → PhyInv x →
    (∀ i rest, s.script = .tick i :: rest → Accepted x i →
      ∃ t y, step s = .next t ∧ t.block = .live y ∧ PhyInv y) ∧
    (s.script = [] → ∃ t y, step s = .next t ∧ t.block = .live y ∧ PhyInv y)

/-- 30_encoding.md R77(a) to (c), 60_exceptions.md R226: which control words are refused, in every variant:
a bit of an absent operation, and without one the reset and the increment of one resource. The names of the
refusals, and that an absent operation is named before a conflict or an absent register, are the model's
choice, log entry 21 (DESIGN CHOICE). -/
def Obligations.ReservedControlWordsAreRefused : Prop :=
  ∀ (s : State) (x : Phy) (i : TickInput) (rest : List Stimulus), s.block = .live x →
    s.script = .tick i :: rest →
    (x.params.hasOdelay = false → bitAt i.ctl 4 = true ∨ bitAt i.ctl 5 = true →
      step s = .refused .absentOperation) ∧
    (x.params.hasWlevel = false →
      bitAt i.ctl 6 = true ∨ bitAt i.ctl 7 = true ∨ bitAt i.ctl 8 = true →
      step s = .refused .absentOperation) ∧
    ((x.params.hasOdelay = false → bitAt i.ctl 4 = false ∧ bitAt i.ctl 5 = false) →
      (x.params.hasWlevel = false →
        bitAt i.ctl 6 = false ∧ bitAt i.ctl 7 = false ∧ bitAt i.ctl 8 = false) →
      (bitAt i.ctl 0 = true ∧ bitAt i.ctl 1 = true) ∨ (bitAt i.ctl 2 = true ∧ bitAt i.ctl 3 = true) ∨
        (bitAt i.ctl 4 = true ∧ bitAt i.ctl 5 = true) →
      step s = .refused .resetWithIncrement)

/-- 20_memory.md R61: a bus read of a register number above 9, or of a register that is not present, is
refused. The control word of the tick is an accepted one. The name of the refusal, and
that the control word is looked at first, is the model's choice, log entry 21 (DESIGN CHOICE). -/
def Obligations.AbsentRegisterReadIsRefused : Prop :=
  ∀ (s : State) (x : Phy) (i : TickInput) (rest : List Stimulus) (r : BitVec 4), s.block = .live x →
    s.script = .tick i :: rest → ctlRefusal (variantOf x.params) i.ctl = none → i.busRead = some r →
    9 < r.toNat ∨ (x.params.hasOdelay = false ∧ (r.toNat = 5 ∨ r.toNat = 6)) ∨
      (x.params.hasWlevel = false ∧ (r.toNat = 7 ∨ r.toNat = 8)) →
    step s = .refused .absentRegister

/-- 20_memory.md R63, 44_delay_cal.md R182: reading a pulse register returns 0, and no bus read changes
what the rest of the tick does. -/
def Obligations.BusReadHasNoSideEffect : Prop :=
  ∀ (s : State) (x : Phy) (i : TickInput) (r : BitVec 4), s.block = .live x → PhyInv x →
    Accepted x i → i.busRead = some r →
    ∃ t u, runTick s i = .next t ∧ runTick s { i with busRead := none } = .next u ∧
      t.block = u.block ∧ t.sig = u.sig ∧ { t.out with busValue := none } = u.out ∧
      (r ≠ 0#4 → r ≠ 7#4 → r ≠ 9#4 → t.out.busValue = some 0)

/-! ## Rules over whole ticks -/

/-- 30_encoding.md R75, 44_delay_cal.md R172 to R175, R178, R179, 43_bitslip.md R163, R164: pulses act on
the lanes of the pre-state's mask and on no others, each as its rule says; a `SEL` of the same tick changes the
mask of the next tick only. -/
def Obligations.PulsesUseTheMaskOfThePreState : Prop :=
  ∀ (s t : State) (x y : Phy) (i : TickInput), s.block = .live x → PhyInv x →
    runTick s i = .next t → t.block = .live y →
    (bitAt i.ctl 9 = true → ∀ l < lanesOf x.params, bitAt y.laneSelect l = bitAt i.ctl (10 + l)) ∧
    (bitAt i.ctl 9 = false → y.laneSelect = x.laneSelect) ∧
    (∀ l < lanesOf x.params, bitAt x.laneSelect l = false →
      y.inTap[l]? = x.inTap[l]? ∧ y.outTap[l]? = x.outTap[l]? ∧ y.rot[l]? = x.rot[l]?) ∧
    ∀ l < lanesOf x.params, bitAt x.laneSelect l = true →
      (bitAt i.ctl 0 = true → y.inTap.getD l 0 = 0) ∧
      (bitAt i.ctl 1 = true → y.inTap.getD l 0 = (x.inTap.getD l 0 + 1) % 2 ^ x.params.tapBits) ∧
      (bitAt i.ctl 2 = true → y.rot.getD l 0 = 0) ∧
      (bitAt i.ctl 3 = true → y.rot.getD l 0 = (x.rot.getD l 0 + 1) % (2 * x.params.phases)) ∧
      (bitAt i.ctl 4 = true → y.outTap.getD l 0 = 0) ∧
      (bitAt i.ctl 5 = true → y.outTap.getD l 0 = (x.outTap.getD l 0 + 1) % 2 ^ x.params.tapBits)

/-- 44_delay_cal.md R172, R176, 43_bitslip.md R166: a tick leaves the taps and the rotation of a lane that
is not selected as they are, whatever pulses it carries. -/
def Obligations.UnselectedLanesKeepTheirCalibration : Prop :=
  ∀ (s t : State) (x y : Phy) (i : TickInput) (l : Nat), s.block = .live x → runTick s i = .next t →
    t.block = .live y → bitAt x.laneSelect l = false →
    y.inTap[l]? = x.inTap[l]? ∧ y.outTap[l]? = x.outTap[l]? ∧ y.rot[l]? = x.rot[l]?

/-- 10_state.md R29, 30_encoding.md R79, 46_system_tick.md R203: without an operation bit in the control
word no element of the calibration state changes, whatever the phase bus, the pins and the bus reads do; and
the calibration state after a tick depends on the control word, the construction parameters and the
calibration state before it only: two ticks with one control word, from any two states that agree in these
two, leave the same calibration state. -/
def Obligations.TrafficLeavesCalibrationStateAlone : Prop :=
  ∀ (s t : State) (x y : Phy) (i : TickInput), s.block = .live x → runTick s i = .next t →
    t.block = .live y →
    ((∀ j, j < 8 ∨ j = 9 → bitAt i.ctl j = false) → SameCalibration y x) ∧
    ∀ (k : TickInput) (u v : State) (z w : Phy), u.block = .live z → z.params = x.params →
      SameCalibration z x → k.ctl = i.ctl → runTick u k = .next v → v.block = .live w →
      SameCalibration w y

/-- 10_state.md R33: the tracking registers are delay lines that shift in every tick; nothing but the two
flow flags and the registers themselves enters them, not a pulse and not `wlevel_en`. -/
def Obligations.TrackingRegistersShiftInEveryTick : Prop :=
  ∀ (s t : State) (x y : Phy) (i : TickInput), s.block = .live x → PhyInv x →
    runTick s i = .next t → t.block = .live y →
    y.wrSr ++ [y.wrTail] = wrenOf x i :: x.wrSr ∧
    ∃ last, y.rdSr ++ [last] = rdenOf x i :: x.rdSr

/-- 20_memory.md R68, 40_construction.md R109: no tick changes a construction parameter or a constant. -/
def Obligations.TicksKeepTheConstants : Prop :=
  ∀ (s : State) (x : Phy) (inputs : List TickInput) (k : Nat) (t : State), s.block = .live x →
    k ≤ inputs.length → afterTicks s inputs k = .next t →
    ∃ y, t.block = .live y ∧ y.params = x.params ∧ y.settings = x.settings ∧ t.builds = s.builds

/-- 45_write_leveling.md R192 to R194: in a tick that starts in leveling mode every strobe pin is driven,
with the training pattern when `CTL[6]` is 1 and zeros otherwise, every phase's `rddata_valid` is 1, and the
data pins keep the enable that the writes in flight give them. -/
def Obligations.LevelingForcesStrobeAndReadValid : Prop :=
  ∀ (s : State) (x : Phy) (i : TickInput), s.block = .live x → PhyInv x → Accepted x i →
    x.params.hasWlevel = true → x.wlevelEn = true →
    ∃ t, runTick s i = .next t ∧
      (padsOf t.sig.drive).dqs = List.replicate (lanesOf x.params)
        (.driven (if bitAt i.ctl 6 = true then wlevelPatternOf x.params
          else List.replicate (2 * x.params.phases) false)) ∧
      t.out.rddataValid = List.replicate x.params.phases true ∧
      ∀ e ∈ t.sig.drive.dq, e.en =
        (wrPos x false (x.settings.writeLatency - 1) || wrPos x false x.settings.writeLatency ||
          wrPos x false (x.settings.writeLatency + 1))

/-! ## Runs of several ticks -/

/-- 42_flow_control.md R142, R144, R145 "in terms of the input": the write-side flags are those functions
of the write enables of earlier ticks, in every tick with a history of `WL + 3` ticks, and in every tick from
the first on for an instance with no write enable in flight, as at power-on (70_reset_and_hazards.md R230),
where an enable before the first tick counts as 0. -/
def Obligations.WriteFlagsFollowTheEnableHistory : Prop :=
  ∀ (s : State) (x : Phy) (inputs : List TickInput) (n wl d : Nat), s.block = .live x → PhyInv x →
    (∀ i ∈ inputs, Accepted x i) → n < inputs.length → wl = x.settings.writeLatency →
    d = dqsSysLatencyOf x.params wl → wl + 3 ≤ n ∨ NoWriteInFlight x →
    ∃ t, afterTicks s inputs (n + 1) = .next t ∧
      t.sig.oe = (wrenAgo x inputs n wl || wrenAgo x inputs n (wl + 1) ||
        wrenAgo x inputs n (wl + 2)) ∧
      t.sig.dqsPre = (wrenAgo x inputs n (d - 1) && !wrenAgo x inputs n (d + 1)) ∧
      t.sig.dqsPost = (wrenAgo x inputs n (d + 3) && !wrenAgo x inputs n (d + 1))

/-- 42_flow_control.md R147: with the default centre and no leveling, a lone write enable at tick `m`
opens the data and strobe pins in exactly the ticks `m+WL` to `m+WL+2`, with the toggle pattern on the
strobes, preceded and followed by one tick with the zero word. -/
def Obligations.LoneWriteEnableOpensThreeTicks : Prop :=
  ∀ (s : State) (x : Phy) (inputs : List TickInput) (m n wl : Nat), s.block = .live x → PhyInv x →
    (∀ i ∈ inputs, Accepted x i ∧ bitAt i.ctl 7 = false) → x.wlevelEn = false →
    wl = x.settings.writeLatency → dqsSysLatencyOf x.params wl = wl →
    n < inputs.length → wl + 3 ≤ n →
    (∀ k < inputs.length, wrenOf x (inputAt inputs k) = decide (k = m)) →
    ∃ t, afterTicks s inputs (n + 1) = .next t ∧
      t.sig.oe = decide (m + wl ≤ n ∧ n ≤ m + wl + 2) ∧
      t.sig.dqsPre = decide (n + 1 = m + wl) ∧ t.sig.dqsPost = decide (n = m + wl + 3) ∧
      t.sig.dqs = (if n + 1 = m + wl ∨ n = m + wl + 3 then zeroWord x.params
        else dqsPatternOf x.params) ∧
      (∀ e ∈ t.sig.drive.dq, e.en = t.sig.oe) ∧
      t.sig.drive.dqs = List.replicate (lanesOf x.params) { word := t.sig.dqs, en := t.sig.oe }

/-- 42_flow_control.md R152, 70_reset_and_hazards.md R235: in normal mode the read-valid of every tick `n`
is the read enable of tick `n - (read_latency - 1)`, so a pulse at tick `T` gives a valid pulse at exactly
`T + read_latency - 1`; for an instance with no read enable in flight, as at power-on, this holds from the
first tick on, and read-valid is 0 in the first `read_latency - 1` ticks. -/
def Obligations.ReadEnableReturnsAsReadValid : Prop :=
  ∀ (s : State) (x : Phy) (inputs : List TickInput) (n : Nat), s.block = .live x → PhyInv x →
    (∀ i ∈ inputs, Accepted x i ∧ bitAt i.ctl 7 = false) → x.wlevelEn = false →
    n < inputs.length → x.settings.readLatency - 1 ≤ n ∨ NoReadInFlight x →
    ∃ t, afterTicks s inputs (n + 1) = .next t ∧
      t.out.rddataValid = List.replicate x.params.phases
        (rdenAgo x inputs n (x.settings.readLatency - 1))

/-- 41_serdes.md R131: the read-data words of tick `n` are the pins' bits of ticks `n - D` and
`n - D + 1`, `D = DES_DEPTH + BITSLIP_DEPTH`, cut at the rotation in force in tick
`n - BITSLIP_DEPTH + 1`. -/
def Obligations.ReadDataIsThePinsRotated : Prop :=
  ∀ (s : State) (x : Phy) (inputs : List TickInput) (n : Nat), s.block = .live x → PhyInv x →
    (∀ i ∈ inputs, Accepted x i) → n < inputs.length →
    x.params.desDepth + x.params.bitslipDepth ≤ n →
    ∃ t u y, afterTicks s inputs (n + 1) = .next t ∧
      afterTicks s inputs (n + 1 - x.params.bitslipDepth) = .next u ∧ u.block = .live y ∧
      ∀ p < x.params.phases, ∀ pin < x.params.dataBits, ∀ h < 2,
        bitAt (t.out.rddata.getD p []) (h * x.params.dataBits + pin) =
          if y.rot.getD (pin / 8) 0 + (2 * p + h) < 2 * x.params.phases then
            pinBit inputs (n - x.params.desDepth - x.params.bitslipDepth) pin
              (y.rot.getD (pin / 8) 0 + (2 * p + h))
          else pinBit inputs (n - x.params.desDepth - x.params.bitslipDepth + 1) pin
            (y.rot.getD (pin / 8) 0 + (2 * p + h) - 2 * x.params.phases)

/-- 41_serdes.md R127: the pads of tick `n` show what entered the serializer `SER_DEPTH` ticks before; in
the first `SER_DEPTH` ticks of an instance whose `ser_pipe` holds no output enable, as at power-on, every
data and strobe pin is `HiZ`. -/
def Obligations.PadsShowTheDelayedDrive : Prop :=
  ∀ (s : State) (x : Phy) (inputs : List TickInput) (n : Nat), s.block = .live x → PhyInv x →
    (∀ i ∈ inputs, Accepted x i) → n < inputs.length →
    ∃ t, afterTicks s inputs (n + 1) = .next t ∧
      (x.params.serDepth ≤ n →
        ∃ u, afterTicks s inputs (n + 1 - x.params.serDepth) = .next u ∧
          t.out.pads = padsOf u.sig.drive) ∧
      (n < x.params.serDepth →
        (∀ e ∈ x.serPipe, (∀ q ∈ e.dq, q.en = false) ∧ ∀ q ∈ e.dqs, q.en = false) →
        t.out.pads.dq = List.replicate x.params.dataBits .hiZ ∧
        t.out.pads.dqs = List.replicate (lanesOf x.params) .hiZ)

/-- 44_delay_cal.md R181: two runs whose instances differ only in tap values, and whose control words
differ only in the four tap pulses, have equal outputs and stay equal in everything but the taps. -/
def Obligations.TapsDoNotReachTheDatapath : Prop :=
  ∀ (s u : State) (x z : Phy) (a b : List TickInput) (k : Nat), s.block = .live x →
    u.block = .live z → PhyInv x → PhyInv z →
    z = { x with inTap := z.inTap, outTap := z.outTap } → u.out = s.out →
    a.length = b.length → k ≤ a.length →
    (∀ i ∈ a, Accepted x i) → (∀ i ∈ b, Accepted z i) →
    (∀ j < a.length, ∃ w, inputAt b j = { inputAt a j with ctl := w } ∧
      ∀ c, c ≠ 0 → c ≠ 1 → c ≠ 4 → c ≠ 5 → bitAt w c = bitAt (inputAt a j).ctl c) →
    ∃ t v y q, afterTicks s a k = .next t ∧ afterTicks u b k = .next v ∧ v.out = t.out ∧
      t.block = .live y ∧ v.block = .live q ∧ q = { y with inTap := q.inTap, outTap := q.outTap }

/-- 44_delay_cal.md R177, R183, 30_encoding.md R82: `rdly.set K`, `wdly.set K` and `bs.set K` bring the
selected lanes to `K` modulo the width of the counter and leave the other lanes alone. -/
def Obligations.SetScriptsReachTheirValue : Prop :=
  ∀ (s : State) (x : Phy) (base : TickInput) (k : Nat), s.block = .live x → PhyInv x →
    (∃ t y, Host.Core.run core (k + 1) (s.withScript (scriptOf x base (rdlySetLines k))) = .next t ∧
      t.block = .live y ∧ ∀ l < lanesOf x.params, y.inTap.getD l 0 =
        if bitAt x.laneSelect l = true then k % 2 ^ x.params.tapBits else x.inTap.getD l 0) ∧
    (∃ t y, Host.Core.run core (k + 1) (s.withScript (scriptOf x base (bsSetLines k))) = .next t ∧
      t.block = .live y ∧ ∀ l < lanesOf x.params, y.rot.getD l 0 =
        if bitAt x.laneSelect l = true then k % (2 * x.params.phases) else x.rot.getD l 0) ∧
    (x.params.hasOdelay = true →
      ∃ t y, Host.Core.run core (k + 1) (s.withScript (scriptOf x base (wdlySetLines k))) = .next t ∧
        t.block = .live y ∧ ∀ l < lanesOf x.params, y.outTap.getD l 0 =
          if bitAt x.laneSelect l = true then k % 2 ^ x.params.tapBits else x.outTap.getD l 0)

/-- 43_bitslip.md R165: `2N` pulses of `BS_INC` give every rotation back its value. -/
def Obligations.RotationIsCyclic : Prop :=
  ∀ (s : State) (x : Phy) (base : TickInput), s.block = .live x → PhyInv x →
    ∃ t y, Host.Core.run core (2 * x.params.phases)
        (s.withScript (scriptOf x base (List.replicate (2 * x.params.phases) [.bsInc]))) = .next t ∧
      t.block = .live y ∧ y.rot = x.rot

/-- 30_encoding.md R82, 70_reset_and_hazards.md R232: `cal.zero` brings all taps and rotations of all lanes
to 0 in two ticks, leaves `lane_select` all ones and does not touch `wlevel_en`. -/
def Obligations.CalZeroZeroesEveryLane : Prop :=
  ∀ (s : State) (x : Phy) (base : TickInput), s.block = .live x → PhyInv x →
    ∃ t y, Host.Core.run core 2
        (s.withScript (scriptOf x base (calZeroLines (variantOf x.params)))) = .next t ∧
      t.block = .live y ∧ y.laneSelect = List.replicate (lanesOf x.params) true ∧
      y.inTap = List.replicate (lanesOf x.params) 0 ∧ y.rot = List.replicate (lanesOf x.params) 0 ∧
      (x.params.hasOdelay = true → y.outTap = List.replicate (lanesOf x.params) 0) ∧
      y.wlevelEn = x.wlevelEn
end

