-- ==== Sys2Proof/Laws/Ops.lean ====
section
/-! SUPPORT. What each shared operation can do, said once: bit fields, delay lines, lane pulses, access to
the instance, construction results, and the sequence of a tick. -/

namespace Sys2Proof.Machine

/-! Bit fields -/

@[simp] theorem wordOf_length (n : Nat) (f : Nat → Bool) : (wordOf n f).length = n := by
  simp [wordOf]

theorem bitAt_wordOf (n : Nat) (f : Nat → Bool) (i : Nat) :
    bitAt (wordOf n f) i = if i < n then f i else false := by
  unfold bitAt wordOf
  by_cases h : i < n <;> simp [List.getD, h]

theorem bitAt_wordOf_of_lt {n : Nat} (f : Nat → Bool) {i : Nat} (h : i < n) :
    bitAt (wordOf n f) i = f i := by
  rw [bitAt_wordOf, if_pos h]

theorem bitAt_eq_getElem {v : Bits} {i : Nat} (h : i < v.length) : bitAt v i = v[i] := by
  simp [bitAt, List.getD, h]

theorem bitAt_of_length_le {v : Bits} {i : Nat} (h : v.length ≤ i) : bitAt v i = false := by
  simp [bitAt, List.getD, h]

@[simp] theorem bitAt_nil (i : Nat) : bitAt [] i = false := rfl

theorem bits_ext {v w : Bits} (hl : v.length = w.length) (h : ∀ i < v.length, bitAt v i = bitAt w i) :
    v = w := by
  apply List.ext_getElem hl
  intro i hv hw
  rw [← bitAt_eq_getElem hv, ← bitAt_eq_getElem hw]
  exact h i hv

@[simp] theorem fitBits_length (n : Nat) (v : Bits) : (fitBits n v).length = n := wordOf_length n _

theorem bitAt_fitBits (n : Nat) (v : Bits) (i : Nat) :
    bitAt (fitBits n v) i = if i < n then bitAt v i else false := bitAt_wordOf n _ i

theorem fitBits_eq_self {n : Nat} {v : Bits} (h : v.length = n) : fitBits n v = v := by
  apply bits_ext (by simp [h])
  intro i hi
  rw [fitBits_length] at hi
  rw [bitAt_fitBits, if_pos hi]

/-! Delay lines -/

@[simp] theorem shiftIn_length {α : Type} (x : α) (line : List α) :
    (shiftIn x line).length = line.length := by
  simp [shiftIn]

theorem shiftIn_eq_take {α : Type} (x : α) (line : List α) :
    shiftIn x line = (x :: line).take line.length := by
  simp [shiftIn, List.dropLast_eq_take]

theorem shiftIn_append_shiftOut {α : Type} (x : α) (line : List α) :
    shiftIn x line ++ [shiftOut x line] = x :: line := by
  have h := List.dropLast_append_getLast (l := x :: line) (by simp)
  rw [shiftIn, shiftOut]
  cases line with
  | nil => rfl
  | cons y ys => simpa [List.getLast?_eq_some_getLast] using h

@[simp] theorem shiftOut_nil {α : Type} (x : α) : shiftOut x ([] : List α) = x := rfl

@[simp] theorem shiftOut_append {α : Type} (x y : α) (line : List α) :
    shiftOut x (line ++ [y]) = y := by
  simp [shiftOut]

theorem mem_shiftIn {α : Type} {x y : α} {line : List α} (h : y ∈ shiftIn x line) :
    y = x ∨ y ∈ line := by
  simpa using List.mem_of_mem_dropLast h

theorem mem_shiftOut {α : Type} (x : α) (line : List α) :
    shiftOut x line = x ∨ shiftOut x line ∈ line := by
  unfold shiftOut
  cases h : line.getLast? with
  | none => simp
  | some y => exact .inr (by simpa using List.mem_of_getLast? h)

/-! Lane pulses -/

@[simp] theorem pulseLanes_length (select : Bits) (f : Nat → Nat) (v : List Nat) :
    (pulseLanes select f v).length = v.length := by
  simp [pulseLanes]

theorem pulseLanes_getElem? (select : Bits) (f : Nat → Nat) (v : List Nat) (lane : Nat) :
    (pulseLanes select f v)[lane]? =
      v[lane]?.map fun x => if bitAt select lane = true then f x else x := by
  simp [pulseLanes]

theorem pulseLanes_bound {select : Bits} {f : Nat → Nat} {v : List Nat} {m : Nat}
    (hf : ∀ x, x < m → f x < m) (hv : ∀ x ∈ v, x < m) : ∀ x ∈ pulseLanes select f v, x < m := by
  intro x hx
  obtain ⟨lane, hl, rfl⟩ := List.getElem_of_mem hx
  simp only [pulseLanes, List.getElem_mapIdx]
  have h := hv _ (List.getElem_mem (by simpa using hl))
  split
  · exact hf _ h
  · exact h

/-! Access to the instance -/

@[simp] theorem onLive_live {s : State} {x : Phy} (h : s.block = .live x) (f : Phy → Result) :
    onLive s f = f x := by
  simp [onLive, h]

@[simp] theorem onLive_failed {s : State} {e : ConstructError} (h : s.block = .failed e)
    (f : Phy → Result) : onLive s f = .fault .noInstance := by
  simp [onLive, h]

theorem onLive_next {s t : State} {f : Phy → Result} (h : onLive s f = .next t) :
    ∃ x, s.block = .live x ∧ f x = .next t := by
  unfold onLive at h
  split at h
  · exact ⟨_, ‹_›, h⟩
  · cases h

theorem ifPresent_next {present : Bool} {r : Result} {t : State} (h : ifPresent present r = .next t) :
    present = true ∧ r = .next t := by
  unfold ifPresent at h
  split at h
  · exact ⟨‹_›, h⟩
  · cases h

@[simp] theorem ifPresent_true (r : Result) : ifPresent true r = r := rfl

@[simp] theorem ifPresent_false (r : Result) : ifPresent false r = .refused .absentOperation := rfl

/-! Results of construction -/

@[simp] theorem raiseConstruct_block (s : State) (e : ConstructError) :
    (raiseConstruct s e).block = .failed e := rfl

@[simp] theorem raiseConstruct_out (s : State) (e : ConstructError) :
    (raiseConstruct s e).out = Outputs.none := rfl

@[simp] theorem raiseConstruct_script (s : State) (e : ConstructError) :
    (raiseConstruct s e).script = s.script := rfl

@[simp] theorem startInstance_block (s : State) (p : Params) (k : PhySettings) :
    (startInstance s p k).block = .live (powerOnPhy (s.builds + 1) p k) := rfl

@[simp] theorem startInstance_tick (s : State) (p : Params) (k : PhySettings) :
    (startInstance s p k).tick = 0 := rfl

@[simp] theorem startInstance_script (s : State) (p : Params) (k : PhySettings) :
    (startInstance s p k).script = s.script := rfl

/-! The sequence of a tick -/

@[simp] theorem runOps_nil (s : State) : runOps [] s = .next s := rfl

theorem runOps_cons_next {i : Instr} {s t : State} (h : exec i s = .next t) (rest : List Instr) :
    runOps (i :: rest) s = runOps rest t := by
  simp [runOps, h]

/-- If a sequence of operations completes, so does each of them in turn. -/
theorem runOps_cons_inv {i : Instr} {rest : List Instr} {s u : State}
    (h : runOps (i :: rest) s = .next u) : ∃ t, exec i s = .next t ∧ runOps rest t = .next u := by
  unfold runOps at h
  split at h
  · exact ⟨_, ‹_›, h⟩
  · cases h
  · cases h

theorem runOps_append_next {first : List Instr} {s t : State} (h : runOps first s = .next t)
    (rest : List Instr) : runOps (first ++ rest) s = runOps rest t := by
  induction first generalizing s with
  | nil => cases h; rfl
  | cons i is ih =>
    obtain ⟨u, hu, hr⟩ := runOps_cons_inv h
    rw [List.cons_append, runOps_cons_next hu, ih hr]

theorem endTick_next {r : Result} {u : State} (h : endTick r = .next u) :
    ∃ t, r = .next t ∧ u = t.withTick (t.tick + 1) := by
  cases r with
  | next t => exact ⟨t, rfl, by simpa [endTick] using h.symm⟩
  | fault f => cases h
  | refused f => cases h

/-- All a tick can do when it completes: a live instance, accepted words, and the operations of the
schedule one after another. -/
theorem runTick_next {s u : State} {i : TickInput} (h : runTick s i = .next u) :
    ∃ x ops t, s.block = .live x ∧ decodeTick x i = .ok ops ∧ runOps ops (beginTick s i) = .next t ∧
      u = t.withTick (t.tick + 1) := by
  obtain ⟨x, hx, hr⟩ := onLive_next h
  split at hr
  · cases hr
  · obtain ⟨t, ht, hu⟩ := endTick_next hr
    exact ⟨x, _, t, hx, ‹_›, ht, hu⟩

theorem step_tick {s : State} {i : TickInput} {rest : List Stimulus} (h : s.script = .tick i :: rest) :
    step s = runTick (s.withScript rest) i := by
  simp [step, runStimulus, h]

theorem step_construct {s : State} {fn : BitVec 2} {args : ConstructArgs} {rest : List Stimulus}
    (h : s.script = .construct fn args :: rest) :
    step s = runConstruct (s.withScript rest) fn args := by
  simp [step, runStimulus, h]

theorem step_idle {s : State} (h : s.script = []) : step s = runTick s (idleInputOf s) := by
  simp [step, runStimulus, h]

end Sys2Proof.Machine
end

