-- ==== Sys2Proof/Laws/Decode.lean ====
section
/-! SUPPORT. The bits of an encoded control word, and decoding a word with one operation. -/

namespace Sys2Proof

open Sys2Proof.Machine (bitAt wordOf bitAt_wordOf wordOf_length bits_ext)

@[simp] theorem encodeCtl_length (v : Variant) (ops : List Instr) :
    (encodeCtl v ops).length = 10 + v.lanes := wordOf_length _ _

theorem bitAt_encodeCtl (v : Variant) (ops : List Instr) (j : Nat) :
    bitAt (encodeCtl v ops) j = if j < 10 + v.lanes then ops.any fun i => ctlBit i j else false :=
  bitAt_wordOf _ _ j

theorem bitAt_encodeCtl_low (v : Variant) (ops : List Instr) {j : Nat} (h : j < 10) :
    bitAt (encodeCtl v ops) j = ops.any fun i => ctlBit i j := by
  rw [bitAt_encodeCtl, if_pos (by omega)]

/-- `SEL_WDATA` of the word of a `SEL` is its operand. -/
theorem selWdata_encodeCtl_sel (v : Variant) (m : Bits) (h : m.length = v.lanes) :
    selWdata v (encodeCtl v [.sel m]) = m := by
  apply bits_ext (by simp [selWdata, h])
  intro l hl
  have hl' : l < v.lanes := by simpa [selWdata] using hl
  rw [selWdata, bitAt_wordOf, if_pos hl', bitAt_encodeCtl, if_pos (by omega)]
  simp [ctlBit, show 10 + l ≠ 9 by omega]

end Sys2Proof
end

