-- ==== Sys2Proof/Laws/Latency.lean ====
section
/-! SUPPORT. What a legal table gives: the attested row is the first entry that serves 800 MT/s. -/

namespace Sys2Proof.Machine

theorem ratioPositive_iff {r : Ratio} : ratioPositive r = true ↔ 0 < r.num ∧ 0 < r.den := by
  simp [ratioPositive]

theorem ratioLt_trans {a b c : Ratio} (hb : ratioPositive b = true) (hab : ratioLt a b = true)
    (hbc : ratioLt b c = true) : ratioLt a c = true := by
  obtain ⟨-, hden⟩ := ratioPositive_iff.mp hb
  simp only [ratioLt, decide_eq_true_eq] at *
  refine Nat.lt_of_mul_lt_mul_left (a := b.den) ?_
  calc b.den * (a.num * c.den) = a.num * b.den * c.den := by ring
    _ ≤ b.num * a.den * c.den := Nat.mul_le_mul_right _ hab.le
    _ = b.num * c.den * a.den := by ring
    _ < b.den * (c.num * a.den) := by
      rcases Nat.eq_zero_or_pos a.den with h | h
      · simp [h] at hab
      · calc b.num * c.den * a.den < c.num * b.den * a.den := Nat.mul_lt_mul_of_pos_right hbc h
          _ = b.den * (c.num * a.den) := by ring

/-- In an ascending list every entry is positive, and the first is below all others. -/
theorem binsAscending_cons {b : SpeedBin} {bins : List SpeedBin} (h : binsAscending (b :: bins) = true) :
    ratioPositive b.f = true ∧ binsAscending bins = true ∧ ∀ c ∈ bins, ratioLt b.f c.f = true := by
  induction bins generalizing b with
  | nil => exact ⟨by simpa [binsAscending] using h, rfl, nofun⟩
  | cons c rest ih =>
    simp only [binsAscending, Bool.and_eq_true] at h
    obtain ⟨⟨hb, hlt⟩, hc⟩ := h
    refine ⟨hb, hc, fun d hd => ?_⟩
    rcases List.mem_cons.mp hd with rfl | hd
    · exact hlt
    · exact ratioLt_trans (ih hc).1 hlt ((ih hc).2.2 d hd)

theorem isAttestedBin_iff {b : SpeedBin} : isAttestedBin b = true ↔
    b.f.num = 800000000 * b.f.den ∧ b.cl = 6 ∧ b.cwl = 5 := by
  simp [isAttestedBin, ratioIs, and_assoc]

/-- An entry below 800 MT/s does not serve the period of 800 MT/s, and the attested row does. -/
theorem find_attested {bins : List SpeedBin} {period : Ratio} (hp : ratioPositive period = true)
    (h800 : period.num * 400000000 = period.den) (hasc : binsAscending bins = true)
    (hmem : ∃ b ∈ bins, isAttestedBin b = true) :
    ∃ b, bins.find? (binServes period) = some b ∧ b.cl = 6 ∧ b.cwl = 5 := by
  obtain ⟨hnum, -⟩ := ratioPositive_iff.mp hp
  induction bins with
  | nil => obtain ⟨b, hb, -⟩ := hmem; cases hb
  | cons b rest ih =>
    obtain ⟨-, hrest, hlt⟩ := binsAscending_cons hasc
    obtain ⟨c, hc, hatt⟩ := hmem
    obtain ⟨hf, hcl, hcwl⟩ := isAttestedBin_iff.mp hatt
    rcases List.mem_cons.mp hc with rfl | hc
    · have hs : binServes period c = true := by
        simp only [binServes, decide_eq_true_eq, hf, ← h800]
        exact le_of_eq (by ring)
      exact ⟨c, by simp [hs], hcl, hcwl⟩
    · have hs : binServes period b = false := by
        have hbc := hlt c hc
        simp only [ratioLt, decide_eq_true_eq, hf] at hbc
        simp only [binServes, decide_eq_false_iff_not, not_le, ← h800]
        have hb : b.f.num < 800000000 * b.f.den :=
          Nat.lt_of_mul_lt_mul_right (a := c.f.den) (by linarith [mul_right_comm 800000000 c.f.den b.f.den])
        calc period.num * b.f.num < period.num * (800000000 * b.f.den) :=
              Nat.mul_lt_mul_of_pos_left hb hnum
          _ = 2 * (period.num * 400000000 * b.f.den) := by ring
      simpa [hs] using ih hrest ⟨c, hc, hatt⟩

/-- The scenario of 40_construction.md R110: any legal table gives `(6, 5)` for DDR3 at 800 MT/s. -/
theorem resolve_attested {table : List (Family × List SpeedBin)} {period : Ratio}
    (ht : tableLegal table = true) (hp : ratioPositive period = true)
    (h800 : period.num * 400000000 = period.den) : resolve table .ddr3 period = .ok (6, 5) := by
  simp only [tableLegal, Bool.and_eq_true, List.all_eq_true, holdsAttestedRow] at ht
  obtain ⟨hasc, hrow⟩ := ht
  cases hb : binsOf table .ddr3 with
  | none => simp [hb] at hrow
  | some bins =>
    simp only [hb, List.any_eq_true] at hrow
    obtain ⟨e, he, rfl⟩ : ∃ e ∈ table, e.2 = bins := by
      simp only [binsOf, Option.map_eq_some_iff] at hb
      obtain ⟨e, he, h⟩ := hb
      exact ⟨e, List.mem_of_find?_eq_some he, h⟩
    obtain ⟨b, hfind, hcl, hcwl⟩ := find_attested hp h800 (hasc e he) hrow
    simp [resolve, hb, hfind, hcl, hcwl]

theorem binsOf_isNone_resolve {table : List (Family × List SpeedBin)} {family : Family} {period : Ratio}
    (h : binsOf table family = none) :
    resolve table family period = .error (.unsupportedConfiguration family none) := by
  simp [resolve, h]

/-- All that `RESOLVE` can do: the rule's result where a rule states it, elsewhere a pair or the error that
records the period. -/
theorem resolveOperands_cases (table : List (Family × List SpeedBin)) (family : Family) (period : Ratio) :
    ((binsOf table family = none ∨ (ratioPositive period = true ∧ tableLegal table = true)) ∧
      resolveOperands table family period = resolve table family period) ∨
    ((∃ bins, binsOf table family = some bins) ∧
      ((∃ r, resolveOperands table family period = .ok r) ∨
        resolveOperands table family period = .error (.unsupportedConfiguration family (some period)))) := by
  unfold resolveOperands
  split
  · rename_i h
    exact .inl ⟨by simpa [Option.isNone_iff_eq_none] using h, rfl⟩
  · rename_i h
    refine .inr ⟨?_, ?_⟩
    · cases hb : binsOf table family with
      | none => simp [hb] at h
      | some bins => exact ⟨bins, rfl⟩
    · split
      · exact .inl ⟨_, rfl⟩
      · exact .inr rfl

theorem resolveOperands_of_legal {table : List (Family × List SpeedBin)} {family : Family} {period : Ratio}
    (hp : ratioPositive period = true) (ht : tableLegal table = true) :
    resolveOperands table family period = resolve table family period := by
  simp [resolveOperands, hp, ht]

end Sys2Proof.Machine
end

