-- ==== Sys2Proof/Laws/PerInstr.lean ====
section
/-! SUPPORT. Statements about every operation as syntax, one lemma for each constructor. -/

namespace Sys2Proof.Laws.RoundTrip

open Sys2Proof Sys2Proof.Machine

/-- The decoder reads from the word of a well-formed operation exactly the operations that word selects:
the operation alone, or all operations of every tick for the empty word. -/
def Statement (i : Instr) : Prop :=
  ∀ v : Variant, i.wellFormed v = true → decode v (encode v i) = .ok (selectedWith i)

/-- The word of one calibration operation, once its refusal and its operations are known. -/
theorem ofCtl {v : Variant} {w : Bits} {i : Instr} (hr : ctlRefusal v w = none) (ho : ctlOps v w = [i])
    (hi : selectedWith i = [i]) : decode v (.ctl w) = .ok (selectedWith i) := by
  simp [decode, decodeCtl, hr, ho, orCalNop, hi]

/-- `RESOLVE` -/
theorem resolve : Statement .resolve := by
  intro v _
  rfl

/-- `SYS_LATENCY` -/
theorem sysLatency : Statement .sysLatency := by
  intro v _
  rfl

/-- `PHASE_ASSIGN` -/
theorem phaseAssign : Statement .phaseAssign := by
  intro v _
  rfl

/-- `BUILD_SETTINGS` -/
theorem buildSettings : Statement .buildSettings := by
  intro v _
  rfl

/-- `RDLY_RST` -/
theorem rdlyRst : Statement .rdlyRst := by
  intro v _
  apply ofCtl <;> simp [ctlRefusal, ctlOps, bitAt_encodeCtl_low, ctlBit, selectedWith, tickOrder]

/-- `RDLY_INC` -/
theorem rdlyInc : Statement .rdlyInc := by
  intro v _
  apply ofCtl <;> simp [ctlRefusal, ctlOps, bitAt_encodeCtl_low, ctlBit, selectedWith, tickOrder]

/-- `BS_RST` -/
theorem bsRst : Statement .bsRst := by
  intro v _
  apply ofCtl <;> simp [ctlRefusal, ctlOps, bitAt_encodeCtl_low, ctlBit, selectedWith, tickOrder]

/-- `BS_INC` -/
theorem bsInc : Statement .bsInc := by
  intro v _
  apply ofCtl <;> simp [ctlRefusal, ctlOps, bitAt_encodeCtl_low, ctlBit, selectedWith, tickOrder]

/-- `WDLY_RST` -/
theorem wdlyRst : Statement .wdlyRst := by
  intro v h
  apply ofCtl <;>
    simp [ctlRefusal, ctlOps, bitAt_encodeCtl_low, ctlBit, selectedWith, tickOrder,
      show v.hasOdelay = true from h]

/-- `WDLY_INC` -/
theorem wdlyInc : Statement .wdlyInc := by
  intro v h
  apply ofCtl <;>
    simp [ctlRefusal, ctlOps, bitAt_encodeCtl_low, ctlBit, selectedWith, tickOrder,
      show v.hasOdelay = true from h]

/-- `WLEVEL_STB` -/
theorem wlevelStb : Statement .wlevelStb := by
  intro v h
  apply ofCtl <;>
    simp [ctlRefusal, ctlOps, bitAt_encodeCtl_low, ctlBit, selectedWith, tickOrder,
      show v.hasWlevel = true from h]

/-- `WLEVEL_EN` -/
theorem wlevelEn (b : Bool) : Statement (.wlevelEn b) := by
  intro v h
  apply ofCtl <;>
    simp [ctlRefusal, ctlOps, bitAt_encodeCtl_low, ctlBit, selectedWith, tickOrder,
      show v.hasWlevel = true from h]

/-- `SEL` -/
theorem sel (m : Bits) : Statement (.sel m) := by
  intro v h
  have hl : m.length = v.lanes := by simpa [Instr.wellFormed] using h
  apply ofCtl <;>
    simp [ctlRefusal, ctlOps, bitAt_encodeCtl_low, ctlBit, selectedWith, tickOrder,
      selWdata_encodeCtl_sel v m hl]

/-- `CAL_NOP` -/
theorem calNop : Statement .calNop := by
  intro v _
  simp [encode, decode, decodeCtl, ctlRefusal, ctlOps, bitAt_encodeCtl_low, ctlBit, orCalNop,
    selectedWith, tickOrder]

/-- `WREN` -/
theorem wren : Statement .wren := by
  intro v _
  rfl

/-- `RDEN` -/
theorem rden : Statement .rden := by
  intro v _
  rfl

/-- `SER_CMD` -/
theorem serCmd : Statement .serCmd := by
  intro v _
  rfl

/-- `SER_DQ` -/
theorem serDq : Statement .serDq := by
  intro v _
  rfl

/-- `SER_DM` -/
theorem serDm : Statement .serDm := by
  intro v _
  rfl

/-- `SER_DQS` -/
theorem serDqs : Statement .serDqs := by
  intro v _
  rfl

/-- `TRISTATE` -/
theorem tristate : Statement .tristate := by
  intro v _
  rfl

/-- `SER_PIPE` -/
theorem serPipe : Statement .serPipe := by
  intro v _
  rfl

/-- `DES_DQ` -/
theorem desDq : Statement .desDq := by
  intro v _
  rfl

/-- `RD_ASSEMBLE` -/
theorem rdAssemble : Statement .rdAssemble := by
  intro v _
  rfl

/-- `WR_TRACK` -/
theorem wrTrack : Statement .wrTrack := by
  intro v _
  rfl

/-- `OE` -/
theorem oe : Statement .oe := by
  intro v _
  rfl

/-- `OE_DQS` -/
theorem oeDqs : Statement .oeDqs := by
  intro v _
  rfl

/-- `DQS_PRE` -/
theorem dqsPre : Statement .dqsPre := by
  intro v _
  rfl

/-- `DQS_POST` -/
theorem dqsPost : Statement .dqsPost := by
  intro v _
  rfl

/-- `RD_TRACK` -/
theorem rdTrack : Statement .rdTrack := by
  intro v _
  rfl

/-- `RD_VALID` -/
theorem rdValid : Statement .rdValid := by
  intro v _
  rfl

/-- `BS_ALIGN` -/
theorem bsAlign : Statement .bsAlign := by
  intro v _
  rfl

/-- `RD_LANE_SELECT` -/
theorem rdLaneSelect : Statement .rdLaneSelect := by
  intro v _
  simp [encode, decode, decodeReg, registerPresent, selectedWith, tickOrder]

/-- `RD_WLEVEL_EN` -/
theorem rdWlevelEn : Statement .rdWlevelEn := by
  intro v h
  simp [encode, decode, decodeReg, registerPresent, selectedWith, tickOrder,
    show v.hasWlevel = true from h]

/-- `RD_TAP_BASE` -/
theorem rdTapBase : Statement .rdTapBase := by
  intro v _
  simp [encode, decode, decodeReg, registerPresent, selectedWith, tickOrder]

end Sys2Proof.Laws.RoundTrip
end

