-- ==== Sys2Proof/Laws/PowerOn.lean ====
section
/-! SUPPORT. The shape of power-on words, pins and instances. -/

namespace Sys2Proof.Machine

theorem powerOnWords_wf (build : Nat) (place : PowerOnPlace) (n entry count : Nat) :
    WordsWf n count (powerOnWords build place n entry count) := by
  refine ⟨by simp [powerOnWords], fun w hw => ?_⟩
  obtain ⟨pin, -, rfl⟩ := List.mem_map.mp hw
  simp [powerOnWord]

theorem powerOnPins_wf (build : Nat) (place : PowerOnPlace) (n entry count : Nat) :
    PinsWf n count (powerOnPins build place n entry count) := by
  obtain ⟨hl, hw⟩ := powerOnWords_wf build place n entry count
  refine ⟨by simp [powerOnPins, hl], fun e he => ?_⟩
  obtain ⟨w, hmem, rfl⟩ := List.mem_map.mp he
  exact hw w hmem

/-- No data or strobe pin is driven at power-on (70_reset_and_hazards.md R230). -/
theorem powerOnPins_en {build : Nat} {place : PowerOnPlace} {n entry count : Nat} {e : PinEntry}
    (he : e ∈ powerOnPins build place n entry count) : e.en = false := by
  obtain ⟨w, -, rfl⟩ := List.mem_map.mp he
  rfl

theorem powerOnCmd_wf (build : Nat) (p : Params) (entry : Nat) : CmdWf p (powerOnCmd build p entry) :=
  { a := powerOnWords_wf .., ba := powerOnWords_wf .., ras := powerOnWords_wf ..,
    cas := powerOnWords_wf .., we := powerOnWords_wf .., cke := powerOnWords_wf ..,
    odt := powerOnWords_wf .., cs := powerOnWords_wf .., reset := powerOnWords_wf .. }

theorem powerOnSerEntry_wf (build : Nat) (p : Params) (entry : Nat) :
    SerEntryWf p (powerOnSerEntry build p entry) :=
  { cmd := powerOnCmd_wf .., dm := powerOnWords_wf .., dq := powerOnPins_wf ..,
    dqs := powerOnPins_wf .. }

/-- `BUILD_SETTINGS` succeeds only for `N = 2` and `N = 4` (40_construction.md R108 step 1). -/
theorem phases_of_buildSettings {p : Params} {k : PhySettings} (h : buildSettings p = .ok k) :
    p.phases = 2 ∨ p.phases = 4 := by
  by_contra hn
  have : p.phases ≠ 2 ∧ p.phases ≠ 4 := by omega
  simp [buildSettings, this] at h

/-- An instance at power-on meets the invariant, if its constants are those of a construction. -/
theorem powerOnPhy_inv (build : Nat) {p : Params} {k : PhySettings} (hp : paramsLegal p = true)
    (hk : buildSettings p = .ok k) : PhyInv (powerOnPhy build p k) := by
  have hn := phases_of_buildSettings hk
  refine
    { legal := hp, built := hk, laneSelect := List.length_replicate,
      inTap := List.length_replicate, inTapBound := ?_, outTap := List.length_replicate,
      outTapBound := ?_, rot := List.length_replicate, rotBound := ?_, wlevel := nofun,
      wrSr := List.length_replicate, rdSr := List.length_replicate,
      bsPrev := powerOnWords_wf .., serPipe := by simp [powerOnPhy], serEntries := ?_,
      desPipe := by simp [powerOnPhy], desGroups := ?_,
      bsPipe := by simp [powerOnPhy], bsGroups := ?_ }
  · intro v hv
    rw [List.eq_of_mem_replicate hv]
    exact Nat.two_pow_pos _
  · intro v hv
    rw [List.eq_of_mem_replicate hv]
    exact Nat.two_pow_pos _
  · intro v hv
    rw [List.eq_of_mem_replicate hv]
    simp only [powerOnPhy]
    omega
  · intro e he
    obtain ⟨entry, -, rfl⟩ := List.mem_map.mp he
    exact powerOnSerEntry_wf ..
  · intro g hg
    obtain ⟨entry, -, rfl⟩ := List.mem_map.mp hg
    exact powerOnWords_wf ..
  · intro g hg
    obtain ⟨entry, -, rfl⟩ := List.mem_map.mp hg
    exact powerOnWords_wf ..

end Sys2Proof.Machine
end

