-- ==== Sys2Proof/Laws/State.lean ====
section
/-! SUPPORT. What each update of the state and of the instance does to each field; every lemma is true by rfl. -/

namespace Sys2Proof.Machine

@[simp] theorem State.withPhy_script (s : State) (x : Phy) : (s.withPhy x).script = s.script := rfl
@[simp] theorem State.withPhy_inp (s : State) (x : Phy) : (s.withPhy x).inp = s.inp := rfl
@[simp] theorem State.withPhy_args (s : State) (x : Phy) : (s.withPhy x).args = s.args := rfl
@[simp] theorem State.withPhy_sig (s : State) (x : Phy) : (s.withPhy x).sig = s.sig := rfl
@[simp] theorem State.withPhy_out (s : State) (x : Phy) : (s.withPhy x).out = s.out := rfl
@[simp] theorem State.withPhy_tick (s : State) (x : Phy) : (s.withPhy x).tick = s.tick := rfl
@[simp] theorem State.withPhy_builds (s : State) (x : Phy) : (s.withPhy x).builds = s.builds := rfl
@[simp] theorem State.withPhy_block (s : State) (x : Phy) : (s.withPhy x).block = .live x := rfl

@[simp] theorem State.withSig_script (s : State) (g : Signals) : (s.withSig g).script = s.script := rfl
@[simp] theorem State.withSig_inp (s : State) (g : Signals) : (s.withSig g).inp = s.inp := rfl
@[simp] theorem State.withSig_args (s : State) (g : Signals) : (s.withSig g).args = s.args := rfl
@[simp] theorem State.withSig_sig (s : State) (g : Signals) : (s.withSig g).sig = g := rfl
@[simp] theorem State.withSig_out (s : State) (g : Signals) : (s.withSig g).out = s.out := rfl
@[simp] theorem State.withSig_tick (s : State) (g : Signals) : (s.withSig g).tick = s.tick := rfl
@[simp] theorem State.withSig_builds (s : State) (g : Signals) : (s.withSig g).builds = s.builds := rfl
@[simp] theorem State.withSig_block (s : State) (g : Signals) : (s.withSig g).block = s.block := rfl

@[simp] theorem State.withOut_script (s : State) (o : Outputs) : (s.withOut o).script = s.script := rfl
@[simp] theorem State.withOut_inp (s : State) (o : Outputs) : (s.withOut o).inp = s.inp := rfl
@[simp] theorem State.withOut_args (s : State) (o : Outputs) : (s.withOut o).args = s.args := rfl
@[simp] theorem State.withOut_sig (s : State) (o : Outputs) : (s.withOut o).sig = s.sig := rfl
@[simp] theorem State.withOut_out (s : State) (o : Outputs) : (s.withOut o).out = o := rfl
@[simp] theorem State.withOut_tick (s : State) (o : Outputs) : (s.withOut o).tick = s.tick := rfl
@[simp] theorem State.withOut_builds (s : State) (o : Outputs) : (s.withOut o).builds = s.builds := rfl
@[simp] theorem State.withOut_block (s : State) (o : Outputs) : (s.withOut o).block = s.block := rfl

@[simp] theorem State.withError_script (s : State) (e : ConstructError) : (s.withError e).script = s.script := rfl
@[simp] theorem State.withError_inp (s : State) (e : ConstructError) : (s.withError e).inp = s.inp := rfl
@[simp] theorem State.withError_args (s : State) (e : ConstructError) : (s.withError e).args = s.args := rfl
@[simp] theorem State.withError_sig (s : State) (e : ConstructError) : (s.withError e).sig = s.sig := rfl
@[simp] theorem State.withError_out (s : State) (e : ConstructError) : (s.withError e).out = s.out := rfl
@[simp] theorem State.withError_tick (s : State) (e : ConstructError) : (s.withError e).tick = s.tick := rfl
@[simp] theorem State.withError_builds (s : State) (e : ConstructError) : (s.withError e).builds = s.builds := rfl
@[simp] theorem State.withError_block (s : State) (e : ConstructError) : (s.withError e).block = .failed e := rfl

@[simp] theorem State.withNewInstance_script (s : State) (n : Nat) (x : Phy) : (s.withNewInstance n x).script = s.script := rfl
@[simp] theorem State.withNewInstance_inp (s : State) (n : Nat) (x : Phy) : (s.withNewInstance n x).inp = s.inp := rfl
@[simp] theorem State.withNewInstance_args (s : State) (n : Nat) (x : Phy) : (s.withNewInstance n x).args = s.args := rfl
@[simp] theorem State.withNewInstance_sig (s : State) (n : Nat) (x : Phy) : (s.withNewInstance n x).sig = s.sig := rfl
@[simp] theorem State.withNewInstance_out (s : State) (n : Nat) (x : Phy) : (s.withNewInstance n x).out = s.out := rfl
@[simp] theorem State.withNewInstance_tick (s : State) (n : Nat) (x : Phy) : (s.withNewInstance n x).tick = 0 := rfl
@[simp] theorem State.withNewInstance_builds (s : State) (n : Nat) (x : Phy) : (s.withNewInstance n x).builds = n := rfl
@[simp] theorem State.withNewInstance_block (s : State) (n : Nat) (x : Phy) : (s.withNewInstance n x).block = .live x := rfl

@[simp] theorem State.withInput_script (s : State) (i : TickInput) : (s.withInput i).script = s.script := rfl
@[simp] theorem State.withInput_inp (s : State) (i : TickInput) : (s.withInput i).inp = i := rfl
@[simp] theorem State.withInput_args (s : State) (i : TickInput) : (s.withInput i).args = s.args := rfl
@[simp] theorem State.withInput_sig (s : State) (i : TickInput) : (s.withInput i).sig = s.sig := rfl
@[simp] theorem State.withInput_out (s : State) (i : TickInput) : (s.withInput i).out = s.out := rfl
@[simp] theorem State.withInput_tick (s : State) (i : TickInput) : (s.withInput i).tick = s.tick := rfl
@[simp] theorem State.withInput_builds (s : State) (i : TickInput) : (s.withInput i).builds = s.builds := rfl
@[simp] theorem State.withInput_block (s : State) (i : TickInput) : (s.withInput i).block = s.block := rfl

@[simp] theorem State.withArgs_script (s : State) (a : ConstructArgs) : (s.withArgs a).script = s.script := rfl
@[simp] theorem State.withArgs_inp (s : State) (a : ConstructArgs) : (s.withArgs a).inp = s.inp := rfl
@[simp] theorem State.withArgs_args (s : State) (a : ConstructArgs) : (s.withArgs a).args = a := rfl
@[simp] theorem State.withArgs_sig (s : State) (a : ConstructArgs) : (s.withArgs a).sig = s.sig := rfl
@[simp] theorem State.withArgs_out (s : State) (a : ConstructArgs) : (s.withArgs a).out = s.out := rfl
@[simp] theorem State.withArgs_tick (s : State) (a : ConstructArgs) : (s.withArgs a).tick = s.tick := rfl
@[simp] theorem State.withArgs_builds (s : State) (a : ConstructArgs) : (s.withArgs a).builds = s.builds := rfl
@[simp] theorem State.withArgs_block (s : State) (a : ConstructArgs) : (s.withArgs a).block = s.block := rfl

@[simp] theorem State.withScript_script (s : State) (l : List Stimulus) : (s.withScript l).script = l := rfl
@[simp] theorem State.withScript_inp (s : State) (l : List Stimulus) : (s.withScript l).inp = s.inp := rfl
@[simp] theorem State.withScript_args (s : State) (l : List Stimulus) : (s.withScript l).args = s.args := rfl
@[simp] theorem State.withScript_sig (s : State) (l : List Stimulus) : (s.withScript l).sig = s.sig := rfl
@[simp] theorem State.withScript_out (s : State) (l : List Stimulus) : (s.withScript l).out = s.out := rfl
@[simp] theorem State.withScript_tick (s : State) (l : List Stimulus) : (s.withScript l).tick = s.tick := rfl
@[simp] theorem State.withScript_builds (s : State) (l : List Stimulus) : (s.withScript l).builds = s.builds := rfl
@[simp] theorem State.withScript_block (s : State) (l : List Stimulus) : (s.withScript l).block = s.block := rfl

@[simp] theorem State.withTick_script (s : State) (t : Nat) : (s.withTick t).script = s.script := rfl
@[simp] theorem State.withTick_inp (s : State) (t : Nat) : (s.withTick t).inp = s.inp := rfl
@[simp] theorem State.withTick_args (s : State) (t : Nat) : (s.withTick t).args = s.args := rfl
@[simp] theorem State.withTick_sig (s : State) (t : Nat) : (s.withTick t).sig = s.sig := rfl
@[simp] theorem State.withTick_out (s : State) (t : Nat) : (s.withTick t).out = s.out := rfl
@[simp] theorem State.withTick_tick (s : State) (t : Nat) : (s.withTick t).tick = t := rfl
@[simp] theorem State.withTick_builds (s : State) (t : Nat) : (s.withTick t).builds = s.builds := rfl
@[simp] theorem State.withTick_block (s : State) (t : Nat) : (s.withTick t).block = s.block := rfl

@[simp] theorem pulseInTap_params (x : Phy) (f : Nat → Nat) :
    (pulseInTap x f).params = x.params := rfl
@[simp] theorem pulseInTap_settings (x : Phy) (f : Nat → Nat) :
    (pulseInTap x f).settings = x.settings := rfl
@[simp] theorem pulseInTap_laneSelect (x : Phy) (f : Nat → Nat) :
    (pulseInTap x f).laneSelect = x.laneSelect := rfl
@[simp] theorem pulseInTap_inTap (x : Phy) (f : Nat → Nat) :
    (pulseInTap x f).inTap = pulseLanes x.laneSelect f x.inTap := rfl
@[simp] theorem pulseInTap_outTap (x : Phy) (f : Nat → Nat) :
    (pulseInTap x f).outTap = x.outTap := rfl
@[simp] theorem pulseInTap_rot (x : Phy) (f : Nat → Nat) :
    (pulseInTap x f).rot = x.rot := rfl
@[simp] theorem pulseInTap_wlevelEn (x : Phy) (f : Nat → Nat) :
    (pulseInTap x f).wlevelEn = x.wlevelEn := rfl
@[simp] theorem pulseInTap_wrSr (x : Phy) (f : Nat → Nat) :
    (pulseInTap x f).wrSr = x.wrSr := rfl
@[simp] theorem pulseInTap_wrTail (x : Phy) (f : Nat → Nat) :
    (pulseInTap x f).wrTail = x.wrTail := rfl
@[simp] theorem pulseInTap_rdSr (x : Phy) (f : Nat → Nat) :
    (pulseInTap x f).rdSr = x.rdSr := rfl
@[simp] theorem pulseInTap_bsPrev (x : Phy) (f : Nat → Nat) :
    (pulseInTap x f).bsPrev = x.bsPrev := rfl
@[simp] theorem pulseInTap_serPipe (x : Phy) (f : Nat → Nat) :
    (pulseInTap x f).serPipe = x.serPipe := rfl
@[simp] theorem pulseInTap_desPipe (x : Phy) (f : Nat → Nat) :
    (pulseInTap x f).desPipe = x.desPipe := rfl
@[simp] theorem pulseInTap_bsPipe (x : Phy) (f : Nat → Nat) :
    (pulseInTap x f).bsPipe = x.bsPipe := rfl

@[simp] theorem pulseOutTap_params (x : Phy) (f : Nat → Nat) :
    (pulseOutTap x f).params = x.params := rfl
@[simp] theorem pulseOutTap_settings (x : Phy) (f : Nat → Nat) :
    (pulseOutTap x f).settings = x.settings := rfl
@[simp] theorem pulseOutTap_laneSelect (x : Phy) (f : Nat → Nat) :
    (pulseOutTap x f).laneSelect = x.laneSelect := rfl
@[simp] theorem pulseOutTap_inTap (x : Phy) (f : Nat → Nat) :
    (pulseOutTap x f).inTap = x.inTap := rfl
@[simp] theorem pulseOutTap_outTap (x : Phy) (f : Nat → Nat) :
    (pulseOutTap x f).outTap = pulseLanes x.laneSelect f x.outTap := rfl
@[simp] theorem pulseOutTap_rot (x : Phy) (f : Nat → Nat) :
    (pulseOutTap x f).rot = x.rot := rfl
@[simp] theorem pulseOutTap_wlevelEn (x : Phy) (f : Nat → Nat) :
    (pulseOutTap x f).wlevelEn = x.wlevelEn := rfl
@[simp] theorem pulseOutTap_wrSr (x : Phy) (f : Nat → Nat) :
    (pulseOutTap x f).wrSr = x.wrSr := rfl
@[simp] theorem pulseOutTap_wrTail (x : Phy) (f : Nat → Nat) :
    (pulseOutTap x f).wrTail = x.wrTail := rfl
@[simp] theorem pulseOutTap_rdSr (x : Phy) (f : Nat → Nat) :
    (pulseOutTap x f).rdSr = x.rdSr := rfl
@[simp] theorem pulseOutTap_bsPrev (x : Phy) (f : Nat → Nat) :
    (pulseOutTap x f).bsPrev = x.bsPrev := rfl
@[simp] theorem pulseOutTap_serPipe (x : Phy) (f : Nat → Nat) :
    (pulseOutTap x f).serPipe = x.serPipe := rfl
@[simp] theorem pulseOutTap_desPipe (x : Phy) (f : Nat → Nat) :
    (pulseOutTap x f).desPipe = x.desPipe := rfl
@[simp] theorem pulseOutTap_bsPipe (x : Phy) (f : Nat → Nat) :
    (pulseOutTap x f).bsPipe = x.bsPipe := rfl

@[simp] theorem pulseRot_params (x : Phy) (f : Nat → Nat) :
    (pulseRot x f).params = x.params := rfl
@[simp] theorem pulseRot_settings (x : Phy) (f : Nat → Nat) :
    (pulseRot x f).settings = x.settings := rfl
@[simp] theorem pulseRot_laneSelect (x : Phy) (f : Nat → Nat) :
    (pulseRot x f).laneSelect = x.laneSelect := rfl
@[simp] theorem pulseRot_inTap (x : Phy) (f : Nat → Nat) :
    (pulseRot x f).inTap = x.inTap := rfl
@[simp] theorem pulseRot_outTap (x : Phy) (f : Nat → Nat) :
    (pulseRot x f).outTap = x.outTap := rfl
@[simp] theorem pulseRot_rot (x : Phy) (f : Nat → Nat) :
    (pulseRot x f).rot = pulseLanes x.laneSelect f x.rot := rfl
@[simp] theorem pulseRot_wlevelEn (x : Phy) (f : Nat → Nat) :
    (pulseRot x f).wlevelEn = x.wlevelEn := rfl
@[simp] theorem pulseRot_wrSr (x : Phy) (f : Nat → Nat) :
    (pulseRot x f).wrSr = x.wrSr := rfl
@[simp] theorem pulseRot_wrTail (x : Phy) (f : Nat → Nat) :
    (pulseRot x f).wrTail = x.wrTail := rfl
@[simp] theorem pulseRot_rdSr (x : Phy) (f : Nat → Nat) :
    (pulseRot x f).rdSr = x.rdSr := rfl
@[simp] theorem pulseRot_bsPrev (x : Phy) (f : Nat → Nat) :
    (pulseRot x f).bsPrev = x.bsPrev := rfl
@[simp] theorem pulseRot_serPipe (x : Phy) (f : Nat → Nat) :
    (pulseRot x f).serPipe = x.serPipe := rfl
@[simp] theorem pulseRot_desPipe (x : Phy) (f : Nat → Nat) :
    (pulseRot x f).desPipe = x.desPipe := rfl
@[simp] theorem pulseRot_bsPipe (x : Phy) (f : Nat → Nat) :
    (pulseRot x f).bsPipe = x.bsPipe := rfl

@[simp] theorem writeLaneSelect_params (x : Phy) (v : Bits) :
    (writeLaneSelect x v).params = x.params := rfl
@[simp] theorem writeLaneSelect_settings (x : Phy) (v : Bits) :
    (writeLaneSelect x v).settings = x.settings := rfl
@[simp] theorem writeLaneSelect_laneSelect (x : Phy) (v : Bits) :
    (writeLaneSelect x v).laneSelect = fitBits (lanesOf x.params) v := rfl
@[simp] theorem writeLaneSelect_inTap (x : Phy) (v : Bits) :
    (writeLaneSelect x v).inTap = x.inTap := rfl
@[simp] theorem writeLaneSelect_outTap (x : Phy) (v : Bits) :
    (writeLaneSelect x v).outTap = x.outTap := rfl
@[simp] theorem writeLaneSelect_rot (x : Phy) (v : Bits) :
    (writeLaneSelect x v).rot = x.rot := rfl
@[simp] theorem writeLaneSelect_wlevelEn (x : Phy) (v : Bits) :
    (writeLaneSelect x v).wlevelEn = x.wlevelEn := rfl
@[simp] theorem writeLaneSelect_wrSr (x : Phy) (v : Bits) :
    (writeLaneSelect x v).wrSr = x.wrSr := rfl
@[simp] theorem writeLaneSelect_wrTail (x : Phy) (v : Bits) :
    (writeLaneSelect x v).wrTail = x.wrTail := rfl
@[simp] theorem writeLaneSelect_rdSr (x : Phy) (v : Bits) :
    (writeLaneSelect x v).rdSr = x.rdSr := rfl
@[simp] theorem writeLaneSelect_bsPrev (x : Phy) (v : Bits) :
    (writeLaneSelect x v).bsPrev = x.bsPrev := rfl
@[simp] theorem writeLaneSelect_serPipe (x : Phy) (v : Bits) :
    (writeLaneSelect x v).serPipe = x.serPipe := rfl
@[simp] theorem writeLaneSelect_desPipe (x : Phy) (v : Bits) :
    (writeLaneSelect x v).desPipe = x.desPipe := rfl
@[simp] theorem writeLaneSelect_bsPipe (x : Phy) (v : Bits) :
    (writeLaneSelect x v).bsPipe = x.bsPipe := rfl

@[simp] theorem writeWlevelEn_params (x : Phy) (v : Bool) :
    (writeWlevelEn x v).params = x.params := rfl
@[simp] theorem writeWlevelEn_settings (x : Phy) (v : Bool) :
    (writeWlevelEn x v).settings = x.settings := rfl
@[simp] theorem writeWlevelEn_laneSelect (x : Phy) (v : Bool) :
    (writeWlevelEn x v).laneSelect = x.laneSelect := rfl
@[simp] theorem writeWlevelEn_inTap (x : Phy) (v : Bool) :
    (writeWlevelEn x v).inTap = x.inTap := rfl
@[simp] theorem writeWlevelEn_outTap (x : Phy) (v : Bool) :
    (writeWlevelEn x v).outTap = x.outTap := rfl
@[simp] theorem writeWlevelEn_rot (x : Phy) (v : Bool) :
    (writeWlevelEn x v).rot = x.rot := rfl
@[simp] theorem writeWlevelEn_wlevelEn (x : Phy) (v : Bool) :
    (writeWlevelEn x v).wlevelEn = v := rfl
@[simp] theorem writeWlevelEn_wrSr (x : Phy) (v : Bool) :
    (writeWlevelEn x v).wrSr = x.wrSr := rfl
@[simp] theorem writeWlevelEn_wrTail (x : Phy) (v : Bool) :
    (writeWlevelEn x v).wrTail = x.wrTail := rfl
@[simp] theorem writeWlevelEn_rdSr (x : Phy) (v : Bool) :
    (writeWlevelEn x v).rdSr = x.rdSr := rfl
@[simp] theorem writeWlevelEn_bsPrev (x : Phy) (v : Bool) :
    (writeWlevelEn x v).bsPrev = x.bsPrev := rfl
@[simp] theorem writeWlevelEn_serPipe (x : Phy) (v : Bool) :
    (writeWlevelEn x v).serPipe = x.serPipe := rfl
@[simp] theorem writeWlevelEn_desPipe (x : Phy) (v : Bool) :
    (writeWlevelEn x v).desPipe = x.desPipe := rfl
@[simp] theorem writeWlevelEn_bsPipe (x : Phy) (v : Bool) :
    (writeWlevelEn x v).bsPipe = x.bsPipe := rfl

@[simp] theorem shiftWr_params (x : Phy) (w : Bool) :
    (shiftWr x w).params = x.params := rfl
@[simp] theorem shiftWr_settings (x : Phy) (w : Bool) :
    (shiftWr x w).settings = x.settings := rfl
@[simp] theorem shiftWr_laneSelect (x : Phy) (w : Bool) :
    (shiftWr x w).laneSelect = x.laneSelect := rfl
@[simp] theorem shiftWr_inTap (x : Phy) (w : Bool) :
    (shiftWr x w).inTap = x.inTap := rfl
@[simp] theorem shiftWr_outTap (x : Phy) (w : Bool) :
    (shiftWr x w).outTap = x.outTap := rfl
@[simp] theorem shiftWr_rot (x : Phy) (w : Bool) :
    (shiftWr x w).rot = x.rot := rfl
@[simp] theorem shiftWr_wlevelEn (x : Phy) (w : Bool) :
    (shiftWr x w).wlevelEn = x.wlevelEn := rfl
@[simp] theorem shiftWr_wrSr (x : Phy) (w : Bool) :
    (shiftWr x w).wrSr = shiftIn w x.wrSr := rfl
@[simp] theorem shiftWr_wrTail (x : Phy) (w : Bool) :
    (shiftWr x w).wrTail = bitAt x.wrSr (x.settings.writeLatency + 1) := rfl
@[simp] theorem shiftWr_rdSr (x : Phy) (w : Bool) :
    (shiftWr x w).rdSr = x.rdSr := rfl
@[simp] theorem shiftWr_bsPrev (x : Phy) (w : Bool) :
    (shiftWr x w).bsPrev = x.bsPrev := rfl
@[simp] theorem shiftWr_serPipe (x : Phy) (w : Bool) :
    (shiftWr x w).serPipe = x.serPipe := rfl
@[simp] theorem shiftWr_desPipe (x : Phy) (w : Bool) :
    (shiftWr x w).desPipe = x.desPipe := rfl
@[simp] theorem shiftWr_bsPipe (x : Phy) (w : Bool) :
    (shiftWr x w).bsPipe = x.bsPipe := rfl

@[simp] theorem shiftRd_params (x : Phy) (r : Bool) :
    (shiftRd x r).params = x.params := rfl
@[simp] theorem shiftRd_settings (x : Phy) (r : Bool) :
    (shiftRd x r).settings = x.settings := rfl
@[simp] theorem shiftRd_laneSelect (x : Phy) (r : Bool) :
    (shiftRd x r).laneSelect = x.laneSelect := rfl
@[simp] theorem shiftRd_inTap (x : Phy) (r : Bool) :
    (shiftRd x r).inTap = x.inTap := rfl
@[simp] theorem shiftRd_outTap (x : Phy) (r : Bool) :
    (shiftRd x r).outTap = x.outTap := rfl
@[simp] theorem shiftRd_rot (x : Phy) (r : Bool) :
    (shiftRd x r).rot = x.rot := rfl
@[simp] theorem shiftRd_wlevelEn (x : Phy) (r : Bool) :
    (shiftRd x r).wlevelEn = x.wlevelEn := rfl
@[simp] theorem shiftRd_wrSr (x : Phy) (r : Bool) :
    (shiftRd x r).wrSr = x.wrSr := rfl
@[simp] theorem shiftRd_wrTail (x : Phy) (r : Bool) :
    (shiftRd x r).wrTail = x.wrTail := rfl
@[simp] theorem shiftRd_rdSr (x : Phy) (r : Bool) :
    (shiftRd x r).rdSr = shiftIn r x.rdSr := rfl
@[simp] theorem shiftRd_bsPrev (x : Phy) (r : Bool) :
    (shiftRd x r).bsPrev = x.bsPrev := rfl
@[simp] theorem shiftRd_serPipe (x : Phy) (r : Bool) :
    (shiftRd x r).serPipe = x.serPipe := rfl
@[simp] theorem shiftRd_desPipe (x : Phy) (r : Bool) :
    (shiftRd x r).desPipe = x.desPipe := rfl
@[simp] theorem shiftRd_bsPipe (x : Phy) (r : Bool) :
    (shiftRd x r).bsPipe = x.bsPipe := rfl

@[simp] theorem pushSer_params (x : Phy) (e : SerEntry) :
    (pushSer x e).params = x.params := rfl
@[simp] theorem pushSer_settings (x : Phy) (e : SerEntry) :
    (pushSer x e).settings = x.settings := rfl
@[simp] theorem pushSer_laneSelect (x : Phy) (e : SerEntry) :
    (pushSer x e).laneSelect = x.laneSelect := rfl
@[simp] theorem pushSer_inTap (x : Phy) (e : SerEntry) :
    (pushSer x e).inTap = x.inTap := rfl
@[simp] theorem pushSer_outTap (x : Phy) (e : SerEntry) :
    (pushSer x e).outTap = x.outTap := rfl
@[simp] theorem pushSer_rot (x : Phy) (e : SerEntry) :
    (pushSer x e).rot = x.rot := rfl
@[simp] theorem pushSer_wlevelEn (x : Phy) (e : SerEntry) :
    (pushSer x e).wlevelEn = x.wlevelEn := rfl
@[simp] theorem pushSer_wrSr (x : Phy) (e : SerEntry) :
    (pushSer x e).wrSr = x.wrSr := rfl
@[simp] theorem pushSer_wrTail (x : Phy) (e : SerEntry) :
    (pushSer x e).wrTail = x.wrTail := rfl
@[simp] theorem pushSer_rdSr (x : Phy) (e : SerEntry) :
    (pushSer x e).rdSr = x.rdSr := rfl
@[simp] theorem pushSer_bsPrev (x : Phy) (e : SerEntry) :
    (pushSer x e).bsPrev = x.bsPrev := rfl
@[simp] theorem pushSer_serPipe (x : Phy) (e : SerEntry) :
    (pushSer x e).serPipe = shiftIn e x.serPipe := rfl
@[simp] theorem pushSer_desPipe (x : Phy) (e : SerEntry) :
    (pushSer x e).desPipe = x.desPipe := rfl
@[simp] theorem pushSer_bsPipe (x : Phy) (e : SerEntry) :
    (pushSer x e).bsPipe = x.bsPipe := rfl

@[simp] theorem pushDes_params (x : Phy) (g : List Bits) :
    (pushDes x g).params = x.params := rfl
@[simp] theorem pushDes_settings (x : Phy) (g : List Bits) :
    (pushDes x g).settings = x.settings := rfl
@[simp] theorem pushDes_laneSelect (x : Phy) (g : List Bits) :
    (pushDes x g).laneSelect = x.laneSelect := rfl
@[simp] theorem pushDes_inTap (x : Phy) (g : List Bits) :
    (pushDes x g).inTap = x.inTap := rfl
@[simp] theorem pushDes_outTap (x : Phy) (g : List Bits) :
    (pushDes x g).outTap = x.outTap := rfl
@[simp] theorem pushDes_rot (x : Phy) (g : List Bits) :
    (pushDes x g).rot = x.rot := rfl
@[simp] theorem pushDes_wlevelEn (x : Phy) (g : List Bits) :
    (pushDes x g).wlevelEn = x.wlevelEn := rfl
@[simp] theorem pushDes_wrSr (x : Phy) (g : List Bits) :
    (pushDes x g).wrSr = x.wrSr := rfl
@[simp] theorem pushDes_wrTail (x : Phy) (g : List Bits) :
    (pushDes x g).wrTail = x.wrTail := rfl
@[simp] theorem pushDes_rdSr (x : Phy) (g : List Bits) :
    (pushDes x g).rdSr = x.rdSr := rfl
@[simp] theorem pushDes_bsPrev (x : Phy) (g : List Bits) :
    (pushDes x g).bsPrev = x.bsPrev := rfl
@[simp] theorem pushDes_serPipe (x : Phy) (g : List Bits) :
    (pushDes x g).serPipe = x.serPipe := rfl
@[simp] theorem pushDes_desPipe (x : Phy) (g : List Bits) :
    (pushDes x g).desPipe = shiftIn g x.desPipe := rfl
@[simp] theorem pushDes_bsPipe (x : Phy) (g : List Bits) :
    (pushDes x g).bsPipe = x.bsPipe := rfl

@[simp] theorem pushAlign_params (x : Phy) (p a : List Bits) :
    (pushAlign x p a).params = x.params := rfl
@[simp] theorem pushAlign_settings (x : Phy) (p a : List Bits) :
    (pushAlign x p a).settings = x.settings := rfl
@[simp] theorem pushAlign_laneSelect (x : Phy) (p a : List Bits) :
    (pushAlign x p a).laneSelect = x.laneSelect := rfl
@[simp] theorem pushAlign_inTap (x : Phy) (p a : List Bits) :
    (pushAlign x p a).inTap = x.inTap := rfl
@[simp] theorem pushAlign_outTap (x : Phy) (p a : List Bits) :
    (pushAlign x p a).outTap = x.outTap := rfl
@[simp] theorem pushAlign_rot (x : Phy) (p a : List Bits) :
    (pushAlign x p a).rot = x.rot := rfl
@[simp] theorem pushAlign_wlevelEn (x : Phy) (p a : List Bits) :
    (pushAlign x p a).wlevelEn = x.wlevelEn := rfl
@[simp] theorem pushAlign_wrSr (x : Phy) (p a : List Bits) :
    (pushAlign x p a).wrSr = x.wrSr := rfl
@[simp] theorem pushAlign_wrTail (x : Phy) (p a : List Bits) :
    (pushAlign x p a).wrTail = x.wrTail := rfl
@[simp] theorem pushAlign_rdSr (x : Phy) (p a : List Bits) :
    (pushAlign x p a).rdSr = x.rdSr := rfl
@[simp] theorem pushAlign_bsPrev (x : Phy) (p a : List Bits) :
    (pushAlign x p a).bsPrev = p := rfl
@[simp] theorem pushAlign_serPipe (x : Phy) (p a : List Bits) :
    (pushAlign x p a).serPipe = x.serPipe := rfl
@[simp] theorem pushAlign_desPipe (x : Phy) (p a : List Bits) :
    (pushAlign x p a).desPipe = x.desPipe := rfl
@[simp] theorem pushAlign_bsPipe (x : Phy) (p a : List Bits) :
    (pushAlign x p a).bsPipe = shiftIn a x.bsPipe := rfl

end Sys2Proof.Machine
end

