-- ==== Sys2Proof/Tests/Slice0.lean ====
section
/-! SUPPORT. Small tests with expected results from the spec's vectors, the smoke test of the checks on
operands, and for every statement with hypotheses a concrete state and operands that meet them. -/

namespace Sys2Proof.Machine

/-! ## Helpers -/

/-- The outcome is a next state that passes a check. -/
def okWith (r : Result) (p : State → Bool) : Bool :=
  match r with
  | .next t => p t
  | .fault _ => false
  | .refused _ => false

/-- The outcome is a next state with a live instance that passes a check. -/
def phyWith (r : Result) (p : Phy → Bool) : Bool :=
  okWith r fun t =>
    match t.block with
    | .live x => p x
    | .failed _ => false

/-- The outcome is a next state in which construction has failed with an error. -/
def failedWith (r : Result) (e : ConstructError) : Bool :=
  okWith r fun t => decide (t.block = .failed e)

/-- The outcome is a refusal by this name. -/
def refusedWith (r : Result) (why : Refusal) : Bool :=
  match r with
  | .next _ => false
  | .fault _ => false
  | .refused w => decide (w = why)

/-- The reference instance of program P1 at power-on. -/
def refPhy : Phy := powerOnPhy 0 referenceParams referenceSettings

/-- The reference instance without output delay lines and without the leveling controller. -/
def plainParams : Params := { referenceParams with hasOdelay := false, hasWlevel := false }

def plainPhy : Phy := powerOnPhy 0 plainParams referenceSettings

/-- The table of V4. -/
def tableT : List SpeedBin :=
  [{ f := { num := 400000000, den := 1 }, cl := 3, cwl := 2 },
   { f := { num := 800000000, den := 1 }, cl := 6, cwl := 5 },
   { f := { num := 1600000000, den := 1 }, cl := 11, cwl := 8 }]

/-- The entry that any table must hold (40_construction.md R110). -/
def attestedEntry : Family × List SpeedBin :=
  (.ddr3, [{ f := { num := 800000000, den := 1 }, cl := 6, cwl := 5 }])

/-- The table of V4 for family tag 0, beside the attested one. -/
def testTable : List (Family × List SpeedBin) := [(.other 0, tableT), attestedEntry]

/-- The reference parameters for family tag 0 with one entry for 800 MT/s. -/
def oneRowParams (cl cwl : Int) : Params :=
  { referenceParams with
    family := .other 0, serDepth := 0, desDepth := 0, bitslipDepth := 1,
    clCwlTable := [(.other 0, [{ f := { num := 800000000, den := 1 }, cl := cl, cwl := cwl }]), attestedEntry] }

/-- The two-phase instance of V5 number 4, with one lane. -/
def twoParams : Params :=
  { referenceParams with
    family := .other 0, phases := 2, dataBits := 8, clCwlTable := testTable,
    serDepth := 1, desDepth := 1, bitslipDepth := 2 }

def twoSettings : PhySettings :=
  { family := .other 0, dfiDatabits := 16, nRanks := 1, nPhases := 2, rdcmdphase := 0, rdphase := 1,
    wrcmdphase := 1, wrphase := 0, cl := 3, cwl := 2, readLatency := 5, writeLatency := 1 }

def twoPhy : Phy := powerOnPhy 0 twoParams twoSettings

/-- Reset with another live instance. -/
def stateOf (x : Phy) : State := State.reset.withPhy x

/-- Reset with these operands of a construction function. -/
def argsState (a : ConstructArgs) : State := State.reset.withArgs a

/-- Reset with these parameters to build. -/
def buildState (p : Params) : State := argsState { referenceArgs with params := p }

/-- Reset with these wires. -/
def sigState (x : Phy) (g : Signals) : State := (stateOf x).withSig g

/-- A tick with four quiet phases, no control bit and all data pins 0. -/
def quietInput : TickInput :=
  { phases := List.replicate 4 PhaseIn.zero, ctl := bitsOfNat 12 0,
    pinIn := List.replicate 16 (bitsOfNat 8 0), busRead := none }

/-- Reset in a tick with these phases. -/
def phasesState (x : Phy) (l : List PhaseIn) : State :=
  (stateOf x).withInput { quietInput with phases := l }

/-- A phase with this data word. -/
def dataPhase (w : Nat) : PhaseIn := { PhaseIn.zero with wrdata := bitsOfNat 16 w }

/-- A phase with this mask word. -/
def maskPhase (w : Nat) : PhaseIn := { PhaseIn.zero with wrdataMask := bitsOfNat 4 w }

/-- A phase with the write enable set. -/
def wrenPhase : PhaseIn := { PhaseIn.zero with wrdataEn := true }

/-- A tick with the write enable of the write phase of the reference instance (phase 3). -/
def wrenInput : TickInput :=
  { quietInput with phases := [PhaseIn.zero, PhaseIn.zero, PhaseIn.zero, wrenPhase] }

/-! ## Smoke test of the checks on operands: each check refuses an ill-formed term -/

theorem test_wf_refuses_short_mask : (Instr.sel [true]).wellFormed resetVariant = false := by decide

theorem test_wf_refuses_absent_output_delay :
    Instr.wdlyRst.wellFormed (variantOf plainParams) = false ∧
      Instr.wdlyInc.wellFormed (variantOf plainParams) = false := by decide

theorem test_wf_refuses_absent_leveling :
    Instr.wlevelStb.wellFormed (variantOf plainParams) = false ∧
      (Instr.wlevelEn true).wellFormed (variantOf plainParams) = false ∧
      Instr.rdWlevelEn.wellFormed (variantOf plainParams) = false := by decide

/-! ## Decoding: the word of every constructor, from 30_encoding.md R71, R72, R78, R83 and V1 -/

theorem test_decode_construct :
    decode resetVariant (.fn 0b00#2) = .ok [.resolve] ∧
    decode resetVariant (.fn 0b01#2) = .ok [.sysLatency] ∧
    decode resetVariant (.fn 0b10#2) = .ok [.phaseAssign] ∧
    decode resetVariant (.fn 0b11#2) = .ok [.buildSettings] := by decide

theorem test_decode_taps :
    decode resetVariant (.ctl (bitsOfNat 12 0x001)) = .ok [.rdlyRst] ∧
    decode resetVariant (.ctl (bitsOfNat 12 0x002)) = .ok [.rdlyInc] ∧
    decode resetVariant (.ctl (bitsOfNat 12 0x010)) = .ok [.wdlyRst] ∧
    decode resetVariant (.ctl (bitsOfNat 12 0x020)) = .ok [.wdlyInc] := by decide

theorem test_decode_bitslip :
    decode resetVariant (.ctl (bitsOfNat 12 0x004)) = .ok [.bsRst] ∧
    decode resetVariant (.ctl (bitsOfNat 12 0x008)) = .ok [.bsInc] := by decide

theorem test_decode_leveling :
    decode resetVariant (.ctl (bitsOfNat 12 0x040)) = .ok [.wlevelStb] ∧
    decode resetVariant (.ctl (bitsOfNat 12 0x080)) = .ok [.wlevelEn false] ∧
    decode resetVariant (.ctl (bitsOfNat 12 0x180)) = .ok [.wlevelEn true] := by decide

theorem test_decode_sel :
    decode resetVariant (.ctl (bitsOfNat 12 0x600)) = .ok [.sel [true, false]] ∧
    decode resetVariant (.ctl (bitsOfNat 12 0xA00)) = .ok [.sel [false, true]] ∧
    decode { resetVariant with lanes := 4 } (.ctl (bitsOfNat 14 0x2A00)) =
      .ok [.sel [false, true, false, true]] := by decide

/-- Bit 8 without bit 7, and `SEL_WDATA` without bit 9, are ignored. -/
theorem test_decode_cal_nop :
    decode resetVariant (.ctl (bitsOfNat 12 0x000)) = .ok [.calNop] ∧
    decode resetVariant (.ctl (bitsOfNat 12 0x100)) = .ok [.calNop] ∧
    decode resetVariant (.ctl (bitsOfNat 12 0xC00)) = .ok [.calNop] := by decide

theorem test_decode_horizontal :
    decode resetVariant (.ctl (bitsOfNat 12 0x015)) = .ok [.rdlyRst, .bsRst, .wdlyRst] ∧
    decode resetVariant (.ctl (bitsOfNat 12 0xE02)) = .ok [.rdlyInc, .sel [true, true]] := by decide

theorem test_decode_refuses_conflicts :
    decode resetVariant (.ctl (bitsOfNat 12 0x003)) = .error .resetWithIncrement ∧
    decode resetVariant (.ctl (bitsOfNat 12 0x00C)) = .error .resetWithIncrement ∧
    decode resetVariant (.ctl (bitsOfNat 12 0x030)) = .error .resetWithIncrement := by decide

theorem test_decode_refuses_absent :
    decode (variantOf plainParams) (.ctl (bitsOfNat 12 0x020)) = .error .absentOperation ∧
    decode (variantOf plainParams) (.ctl (bitsOfNat 12 0x040)) = .error .absentOperation ∧
    decode (variantOf plainParams) (.ctl (bitsOfNat 12 0x100)) = .error .absentOperation := by decide

theorem test_decode_flow :
    decode resetVariant (.flow 0b01#2) = .ok [.wren] ∧
    decode resetVariant (.flow 0b10#2) = .ok [.rden] := by decide

/-- `TICK` rows have no bits: the empty word selects all sixteen of them (30_encoding.md R83). -/
theorem test_decode_tick :
    decode resetVariant .everyTick =
      .ok [.oe, .oeDqs, .dqsPre, .dqsPost, .rdValid, .serCmd, .serDq, .serDm, .serDqs, .tristate,
        .serPipe, .desDq, .bsAlign, .rdAssemble, .wrTrack, .rdTrack] := by decide

theorem test_decode_busrd :
    decode resetVariant (.reg 0#4) = .ok [.rdLaneSelect] ∧
    decode resetVariant (.reg 7#4) = .ok [.rdWlevelEn] ∧
    decode resetVariant (.reg 9#4) = .ok [.rdTapBase] ∧
    decode resetVariant (.reg 2#4) = .ok [] ∧
    decode resetVariant (.reg 10#4) = .error .absentRegister ∧
    decode (variantOf plainParams) (.reg 5#4) = .error .absentRegister := by decide

/-- The bus-side view of V1. -/
theorem test_bus_write :
    busWriteCtl resetVariant 4#4 0xAB = .ok (bitsOfNat 12 0x008) ∧
    busWriteCtl resetVariant 0#4 0x3 = .ok (bitsOfNat 12 0xE00) ∧
    busWriteCtl resetVariant 7#4 1 = .ok (bitsOfNat 12 0x180) := by decide

theorem test_table_words :
    decodeTableWord 8 0x3 = some .buildSettings ∧ decodeTableWord 8 0x8 = some .bsInc ∧
    decodeTableWord 16 0x200 = some (.sel [false, false]) ∧ decodeTableWord 16 0 = some .calNop ∧
    decodeTableWord 8 0x9 = some .rdTapBase := by decide

/-- A bare `SEL` word keeps all `LANES` operand bits of the instance it is loaded on (R83): four lanes. -/
theorem test_fetched_sel_has_the_width_of_the_instance :
    phyWith (step ((stateOf (powerOnPhy 0 { referenceParams with dataBits := 32 }
        { referenceSettings with dfiDatabits := 64 })).withFetchWord 16 0x2A00))
      (fun x => decide (x.laneSelect = [false, true, false, true])) = true := by decide

/-! ## Construction (V2 to V5) -/

theorem test_resolve_equality_qualifies :
    okWith (exec .resolve (argsState { referenceArgs with clockPeriod := { num := 25, den := 10000000000 } }))
      (fun t => decide (t.out.resolved = some (6, 5))) = true := by decide

theorem test_resolve_clock_too_fast :
    failedWith (exec .resolve (argsState { referenceArgs with
        params := { referenceParams with clCwlTable := testTable }, family := .other 0,
        clockPeriod := { num := 12, den := 10000000000 } }))
      (.unsupportedConfiguration (.other 0) (some { num := 12, den := 10000000000 })) = true := by decide

theorem test_sysLatency_rounds_up :
    okWith (exec .sysLatency (argsState { referenceArgs with n := 4, latency := 9 }))
      (fun t => decide (t.out.sysLatency = some 3)) = true := by decide

theorem test_sysLatency_exact_multiple :
    okWith (exec .sysLatency (argsState { referenceArgs with n := 2, latency := 16 }))
      (fun t => decide (t.out.sysLatency = some 8)) = true := by decide

theorem test_phaseAssign_data_phase_zero :
    okWith (exec .phaseAssign (argsState { referenceArgs with n := 4, sys := 1, latency := 4 }))
      (fun t => decide (t.out.phases = some (3, 0))) = true := by decide

theorem test_phaseAssign_scenario :
    okWith (exec .phaseAssign State.reset) (fun t => decide (t.out.phases = some (1, 2))) = true := by
  decide

/-- V5 numbers 1, 3 and 4. -/
theorem test_buildSettings_constants :
    buildSettings referenceParams = .ok referenceSettings ∧
    buildSettings { referenceParams with serDepth := 0, desDepth := 0, bitslipDepth := 1 } =
      .ok { referenceSettings with readLatency := 2 } ∧
    buildSettings twoParams = .ok twoSettings := by decide

/-- V5 numbers 5 to 10, 12, 14 and 15. -/
theorem test_buildSettings_errors :
    failedWith (exec .buildSettings (buildState { referenceParams with phases := 3 }))
      (.unsupportedPhaseCount 3 none) = true ∧
    failedWith (exec .buildSettings (buildState { referenceParams with phases := 3, family := .other 9 }))
      (.unsupportedPhaseCount 3 none) = true ∧
    failedWith (exec .buildSettings (buildState { referenceParams with family := .other 9 }))
      (.unsupportedConfiguration (.other 9) none) = true ∧
    failedWith (exec .buildSettings (buildState { referenceParams with phases := 2 }))
      (.unsupportedPhaseCount 2 (some .ddr3)) = true ∧
    failedWith (exec .buildSettings (buildState
        { referenceParams with fSys := { num := 250000000, den := 1 } }))
      (.unsupportedConfiguration .ddr3 (some { num := 1, den := 1000000000 })) = true ∧
    failedWith (exec .buildSettings (buildState { referenceParams with dqsSysLatency := some 3 }))
      .invalidLatencyConfiguration = true ∧
    failedWith (exec .buildSettings (buildState (oneRowParams 4 3))) .invalidLatencyConfiguration = true ∧
    failedWith (exec .buildSettings (buildState { oneRowParams 0 5 with
        serDepth := 2, desDepth := 2, bitslipDepth := 3 })) .invalidLatencyConfiguration = true ∧
    refusedWith (exec .buildSettings (buildState { referenceParams with dataBits := 12 }))
      .illFormedParameters = true := by decide

/-- R110: a DDR3 table with another row for 800 MT/s is no legal one. -/
theorem test_attested_row_is_needed :
    refusedWith (exec .buildSettings (buildState { referenceParams with
        clCwlTable := [(.ddr3, [{ f := { num := 800000000, den := 1 }, cl := 7, cwl := 6 }])] }))
      .illFormedParameters = true := by decide

/-- An unknown family raises the error whatever the clock period is (R101). -/
theorem test_resolve_unknown_family :
    failedWith (exec .resolve (argsState { referenceArgs with
        family := .other 9, clockPeriod := { num := 0, den := 1 } }))
      (.unsupportedConfiguration (.other 9) none) = true := by decide

/-! ## Calibration (V9, V8.6, V10 and the examples of the rules) -/

theorem test_rdlyRst : phyWith (exec .rdlyRst (stateOf
      { refPhy with inTap := [9, 4], laneSelect := [false, true] }))
    (fun x => decide (x.inTap = [9, 0])) = true := by decide

theorem test_rdlyInc_wraps : phyWith (exec .rdlyInc (stateOf
      { refPhy with inTap := [31, 4], laneSelect := [true, true] }))
    (fun x => decide (x.inTap = [0, 5])) = true := by decide

theorem test_wdlyRst : phyWith (exec .wdlyRst (stateOf
      { refPhy with outTap := [3, 3], laneSelect := [true, false] }))
    (fun x => decide (x.outTap = [0, 3])) = true := by decide

theorem test_wdlyInc : phyWith (exec .wdlyInc (stateOf
      { refPhy with outTap := [0, 3], laneSelect := [true, true] }))
    (fun x => decide (x.outTap = [1, 4])) = true := by decide

theorem test_bsRst : phyWith (exec .bsRst (stateOf
      { refPhy with rot := [5, 2], laneSelect := [true, false] }))
    (fun x => decide (x.rot = [0, 2])) = true := by decide

theorem test_bsInc_wraps : phyWith (exec .bsInc (stateOf
      { refPhy with rot := [7, 2], laneSelect := [true, true] }))
    (fun x => decide (x.rot = [0, 3])) = true := by decide

/-- V9.7: a `sel` and a pulse in one tick act on the old mask. -/
theorem test_sel_and_pulse_in_one_tick :
    phyWith (runTick (stateOf { refPhy with laneSelect := [true, false] })
        { quietInput with ctl := bitsOfNat 12 0xA02 })
      (fun x => decide (x.inTap = [1, 0] ∧ x.laneSelect = [false, true])) = true := by decide

theorem test_wlevelEn : phyWith (exec (.wlevelEn true) State.reset) (fun x => x.wlevelEn) = true := by
  decide

/-- V10.2 and V10.3: the pulse marks the tick in leveling mode only. -/
theorem test_wlevelStb :
    okWith (exec .wlevelStb (stateOf { refPhy with wlevelEn := true })) (fun t => t.sig.strobe) = true ∧
    okWith (exec .wlevelStb State.reset) (fun t => !t.sig.strobe) = true := by decide

theorem test_bus_reads :
    okWith (exec .rdLaneSelect (stateOf { refPhy with laneSelect := [false, true] }))
      (fun t => decide (t.out.busValue = some 2)) = true ∧
    okWith (exec .rdTapBase State.reset) (fun t => decide (t.out.busValue = some 12)) = true ∧
    okWith (exec .rdWlevelEn (stateOf { refPhy with wlevelEn := true }))
      (fun t => decide (t.out.busValue = some 1)) = true := by decide

theorem test_read_of_pulse_register :
    okWith (runTick State.reset { quietInput with busRead := some 1#4 })
      (fun t => decide (t.out.busValue = some 0)) = true := by decide

/-! ## SerDes Bank (V6) -/

theorem test_serCmd : okWith (exec .serCmd (phasesState refPhy
      [{ PhaseIn.zero with address := [true] }, PhaseIn.zero, { PhaseIn.zero with address := [true] },
       { PhaseIn.zero with address := [true] }]))
    (fun t => decide (t.sig.cmd.a.head? = some (bitsOfNat 8 0xF3))) = true := by decide

theorem test_serDq : okWith (exec .serDq (phasesState twoPhy [dataPhase 0xA50F, dataPhase 0x3CC3]))
    (fun t => decide (t.sig.dq = [0x7, 0x5, 0xB, 0x9, 0x8, 0xA, 0x4, 0x6].map (bitsOfNat 4))) = true := by
  decide

theorem test_serDm : okWith (exec .serDm (phasesState refPhy
      [maskPhase 0b0110, maskPhase 0b0001, maskPhase 0b1111, maskPhase 0b1000]))
    (fun t => decide (t.sig.dm = [bitsOfNat 8 0x36, bitsOfNat 8 0xB1])) = true := by decide

theorem test_serDqs :
    okWith (exec .serDqs State.reset) (fun t => decide (t.sig.dqs = bitsOfNat 8 0x55)) = true ∧
    okWith (exec .serDqs (sigState { refPhy with wlevelEn := true }
        { Signals.idle with strobe := true, dqsPre := true }))
      (fun t => decide (t.sig.dqs = bitsOfNat 8 0x01)) = true := by decide

theorem test_serDqs_zero_window :
    okWith (exec .serDqs (sigState refPhy { Signals.idle with dqsPost := true }))
      (fun t => decide (t.sig.dqs = bitsOfNat 8 0)) = true := by decide

theorem test_tristate :
    okWith (exec .tristate (sigState twoPhy
        { Signals.idle with dq := [bitsOfNat 4 7], dqs := bitsOfNat 4 5, oeDqs := true }))
      (fun t => decide ((padsOf t.sig.drive).dq = [.hiZ] ∧
        (padsOf t.sig.drive).dqs = [.driven (bitsOfNat 4 5)])) = true := by decide

/-- V6.6: at power-on the bidirectional pads are not driven. -/
theorem test_serPipe_power_on :
    okWith (exec .serPipe State.reset)
      (fun t => decide (t.out.pads.dq = List.replicate 16 .hiZ ∧
        t.out.pads.dqs = List.replicate 2 .hiZ)) = true := by decide

theorem test_desDq_depth :
    okWith (exec .desDq ((stateOf { twoPhy with desPipe := [[bitsOfNat 4 9]] }).withInput quietInput))
      (fun t => decide (t.sig.group = [bitsOfNat 4 9])) = true := by decide

theorem test_rdAssemble :
    okWith (exec .rdAssemble (sigState { refPhy with params := { referenceParams with dataBits := 8 } }
        { Signals.idle with aligned := [0x94, 0x6B, 0x94, 0x94, 0x94, 0x94, 0x94, 0x94].map (bitsOfNat 8) }))
      (fun t => decide (t.out.rddata = [0x0202, 0x02FD, 0x02FD, 0xFD02].map (bitsOfNat 16))) = true := by
  decide

/-! ## Flow control (V7) -/

/-- V7.1, tick 11: the preamble reads the flag of the tick before. -/
theorem test_dqsPre : okWith (exec .dqsPre (stateOf { refPhy with wrSr := [true, false, false, false] }))
    (fun t => t.sig.dqsPre) = true := by decide

/-- V7.7: with `D = 1` the preamble reads the flag of its own tick. -/
theorem test_dqsPre_current : okWith (exec .dqsPre (sigState
      { refPhy with params := { referenceParams with dqsSysLatency := some 1 } }
      { Signals.idle with wren := true })) (fun t => t.sig.dqsPre) = true := by decide

/-- V7.1, tick 15: the postamble reads `wr_tail`. -/
theorem test_dqsPost : okWith (exec .dqsPost (stateOf { refPhy with wrTail := true }))
    (fun t => t.sig.dqsPost) = true := by decide

/-- V7.1, ticks 11, 12 and 14. -/
theorem test_oe :
    okWith (exec .oe (stateOf { refPhy with wrSr := [true, false, false, false] }))
      (fun t => !t.sig.oe) = true ∧
    okWith (exec .oe (stateOf { refPhy with wrSr := [false, true, false, false] }))
      (fun t => t.sig.oe) = true ∧
    okWith (exec .oe (stateOf { refPhy with wrSr := [false, false, false, true] }))
      (fun t => t.sig.oe) = true := by decide

theorem test_oeDqs_leveling :
    okWith (exec .oeDqs (stateOf { refPhy with wlevelEn := true }))
      (fun t => !t.sig.oe && t.sig.oeDqs) = true := by decide

theorem test_wrTrack : phyWith (exec .wrTrack (sigState { refPhy with wrSr := [false, true, false, true] }
      { Signals.idle with wren := true }))
    (fun x => decide (x.wrSr = [true, false, true, false]) && x.wrTail) = true := by decide

/-- V7.13: an enable on another phase than `wrphase` is not seen. -/
theorem test_wren_of_the_write_phase_only :
    phyWith (runTick State.reset wrenInput) (fun x => bitAt x.wrSr 0) = true ∧
    phyWith (runTick State.reset { quietInput with
        phases := [wrenPhase, PhaseIn.zero, PhaseIn.zero, PhaseIn.zero] })
      (fun x => !bitAt x.wrSr 0) = true := by decide

theorem test_rdTrack : phyWith (exec .rdTrack (sigState
      { refPhy with rdSr := [false, false, false, false, false, false, true] }
      { Signals.idle with rden := true }))
    (fun x => decide (x.rdSr = [true, false, false, false, false, false, false])) = true := by decide

theorem test_rdValid :
    okWith (exec .rdValid (stateOf
        { refPhy with rdSr := [false, false, false, false, false, false, true] }))
      (fun t => decide (t.out.rddataValid = [true, true, true, true])) = true ∧
    okWith (exec .rdValid State.reset)
      (fun t => decide (t.out.rddataValid = [false, false, false, false])) = true := by decide

/-! ## Bitslip Aligner (V8) -/

/-- V8.1 for all eight rotations. -/
theorem test_align_word_N4 :
    (List.range 8).map (fun r => natOfBits (alignWord 4 r (alignBuffer (bitsOfNat 8 0xA7) (bitsOfNat 8 0x3C))))
      = [0xA7, 0x53, 0x29, 0x94, 0xCA, 0xE5, 0xF2, 0x79] := by decide

/-- V8.5, two phases: rotation 3 of `bs_prev = 0x9`, `g = 0x6`, through a pipe of one entry. -/
theorem test_bsAlign_N2 :
    phyWith (exec .bsAlign (sigState
        { twoPhy with bsPrev := List.replicate 8 (bitsOfNat 4 0x9), rot := [3],
                      bsPipe := [List.replicate 8 (bitsOfNat 4 0)] }
        { Signals.idle with group := List.replicate 8 (bitsOfNat 4 0x6) }))
      (fun x => decide (x.bsPipe = [List.replicate 8 (bitsOfNat 4 0xD)] ∧
        x.bsPrev = List.replicate 8 (bitsOfNat 4 0x6))) = true := by decide

/-! ## Instances and inputs that meet the hypotheses of the statements -/

theorem refPhy_inv : PhyInv refPhy := powerOnPhy_inv 0 (by decide) (by decide)

theorem plainPhy_inv : PhyInv plainPhy := powerOnPhy_inv 0 (by decide) (by decide)

theorem twoPhy_inv : PhyInv twoPhy := powerOnPhy_inv 0 (by decide) (by decide)

/-- Lane 0 is selected, lane 1 is not; the counters of lane 0 are at their greatest value. -/
def calPhy : Phy :=
  { refPhy with laneSelect := [true, false], inTap := [31, 4], outTap := [31, 3], rot := [7, 2] }

theorem calPhy_inv : PhyInv calPhy :=
  { refPhy_inv with
    laneSelect := by decide, inTap := by decide, inTapBound := by decide, outTap := by decide,
    outTapBound := by decide, rot := by decide, rotBound := by decide }

/-- The reference instance in leveling mode. -/
def levelPhy : Phy := { refPhy with wlevelEn := true }

theorem levelPhy_inv : PhyInv levelPhy := { refPhy_inv with wlevel := by decide }

/-- `s` with this tick as its script. -/
def tickState (x : Phy) (i : TickInput) : State := (stateOf x).withScript [.tick i]

/-- A quiet tick with this control word. -/
def ctlInput (w : Nat) : TickInput := { quietInput with ctl := bitsOfNat 12 w }

/-- Eight ticks, the write enable in tick `m` alone. -/
def loneWrite (m : Nat) : List TickInput := (List.replicate 8 quietInput).set m wrenInput

theorem accepted_of {x : Phy} {i : TickInput} (h : ctlRefusal (variantOf x.params) i.ctl = none)
    (hb : i.busRead = none) : Accepted x i := ⟨h, by simp [hb]⟩

theorem quiet_accepted : Accepted refPhy quietInput := accepted_of (by decide) rfl

theorem loneWrite_accepted (m : Nat) : ∀ i ∈ loneWrite m, Accepted refPhy i ∧ bitAt i.ctl 7 = false := by
  intro i hi
  rcases List.mem_or_eq_of_mem_set hi with h | rfl
  · rw [List.eq_of_mem_replicate h]
    exact ⟨quiet_accepted, by decide⟩
  · exact ⟨accepted_of (by decide) rfl, by decide⟩

theorem fixedWrite (m : Nat) (hm : m ∈ [0, 3, 4]) : ∀ k < (loneWrite m).length,
    wrenOf refPhy (inputAt (loneWrite m) k) = decide (k = m) := by
  fin_cases hm <;> decide

/-! ## For every statement a state and operands that meet its hypotheses, clause by clause -/

/-- An unknown family; the last entry at equality; a period no entry serves; DDR3 at 800 MT/s; a
clock period of 0 and a table without the attested row. -/
theorem witness_ResolveSelectsFirstServingEntry :
    tableLegal testTable = true ∧
    binsOf testTable (.other 9) = none ∧
    binsOf testTable (.other 0) = some tableT ∧
    (ratioPositive { num := 5, den := 4000000000 } = true ∧
      2 ≤ ratioValue { num := 5, den := 4000000000 } * ratioValue tableT[2].f ∧
      ∀ (j : Nat) (hj : j < 2),
        ratioValue { num := 5, den := 4000000000 } * ratioValue (tableT[j]'(by simp [tableT]; omega)).f < 2) ∧
    (ratioPositive { num := 1, den := 1000000000 } = true ∧
      ∀ b ∈ tableT, ratioValue { num := 1, den := 1000000000 } * ratioValue b.f < 2) ∧
    (ratioPositive { num := 25, den := 10000000000 } = true ∧
      ratioValue { num := 25, den := 10000000000 } = 2 / 800000000) ∧
    (binsOf testTable (.other 0)).isSome = true ∧ ratioPositive { num := 0, den := 1 } = false ∧
    (binsOf [(.other 0, tableT)] (.other 0)).isSome = true ∧ tableLegal [(.other 0, tableT)] = false := by
  refine ⟨by decide, by decide, by decide, ⟨by decide, ?_, ?_⟩, ⟨by decide, ?_⟩, ⟨by decide, ?_⟩,
    by decide, by decide, by decide, by decide⟩
  · norm_num [tableT, ratioValue]
  · intro j hj
    interval_cases j <;> norm_num [tableT, ratioValue]
  · norm_num [tableT, ratioValue]
  · norm_num [ratioValue]

theorem witness_ResolveIsMonotone :
    binsOf [(.other 0, tableT)] (.other 0) = some tableT ∧ (∀ b ∈ tableT, ratioPositive b.f = true) ∧
    ratioPositive { num := 5, den := 4000000000 } = true ∧
    ratioPositive { num := 5, den := 1000000000 } = true ∧
    ratioValue { num := 5, den := 4000000000 } ≤ ratioValue { num := 5, den := 1000000000 } ∧
    resolve [(.other 0, tableT)] (.other 0) { num := 5, den := 4000000000 } = .ok (11, 8) ∧
    resolve [(.other 0, tableT)] (.other 0) { num := 5, den := 1000000000 } = .ok (3, 2) := by
  refine ⟨by decide, by decide, by decide, by decide, ?_, by decide, by decide⟩
  norm_num [ratioValue]

theorem witness_SysLatencyIsTheCeiling : 0 < (argsState { referenceArgs with n := 4, latency := 9 }).args.n := by
  decide

/-- The general clause, and data phase 0. -/
theorem witness_PhaseAssignPlacesCommandOnePhaseEarlier :
    (0 < 4 ∧ (1 : Int) ≤ 9 ∧ IsCeilDiv 9 4 3) ∧
    0 < 4 ∧ (1 : Int) ≤ 4 ∧ IsCeilDiv 4 4 1 ∧ (1 : Int) * 4 - 4 = 0 := by
  refine ⟨⟨by decide, by decide, by decide, ?_⟩, by decide, by decide, ⟨by decide, ?_⟩, by decide⟩ <;>
    intro r hr <;> omega

/-- One set of parameters for each of the four steps. -/
theorem witness_BuildSettingsReportsFirstFailingStep :
    (paramsLegal { referenceParams with phases := 3 } = true ∧ (3 : Nat) ≠ 2 ∧ (3 : Nat) ≠ 4) ∧
    (paramsLegal { referenceParams with family := .other 9 } = true ∧
      binsOf referenceParams.clCwlTable (.other 9) = none) ∧
    (paramsLegal { referenceParams with phases := 2 } = true ∧
      (binsOf referenceParams.clCwlTable .ddr3).isSome = true ∧
      (Family.ddr3, 2) ∈ referenceParams.phaseBad) ∧
    paramsLegal { twoParams with fSys := { num := 900000000, den := 1 } } = true ∧
    binsOf twoParams.clCwlTable twoParams.family = some tableT ∧
    (twoParams.family, twoParams.phases) ∉ twoParams.phaseBad ∧
    ∀ b ∈ tableT, ratioValue b.f < 2 * ((2 : Nat) * ratioValue { num := 900000000, den := 1 }) := by
  refine ⟨by decide, by decide, by decide, by decide, by decide, by decide, ?_⟩
  norm_num [tableT, ratioValue]

/-- A construction that succeeds, with `DQS_SYS_LATENCY` by default, 1 and `WL`; one for each clause of
step 8 that can fire; and the scenario of R110. -/
theorem witness_BuildSettingsPlansLatencies :
    ((∀ d ∈ [none, some 1, some 2], paramsLegal { referenceParams with dqsSysLatency := d } = true ∧
        ∀ k, d = some k → 1 ≤ k ∧ (k : Int) ≤ 2) ∧
      (Family.ddr3, 4) ∉ referenceParams.phaseBad ∧
      resolve referenceParams.clCwlTable .ddr3 (ioPeriod 4 referenceParams.fSys) = .ok (6, 5) ∧
      IsCeilDiv 6 4 2 ∧ IsCeilDiv 5 4 2 ∧ (1 : Int) < 2 + 2 + 2 + 3 - 1 ∧
      ratioValue referenceParams.fSys = 100000000) ∧
    (∀ d ∈ [0, 3], paramsLegal { referenceParams with dqsSysLatency := some d } = true ∧
      (d < 1 ∨ 2 < (d : Int))) ∧
    (∀ c ∈ [((0 : Int), (5 : Int)), (6, 0), (1, 1)],
      paramsLegal (oneRowParams c.1 c.2) = true ∧ (Family.other 0, 4) ∉ referenceParams.phaseBad ∧
      resolve (oneRowParams c.1 c.2).clCwlTable (.other 0) (ioPeriod 4 referenceParams.fSys) = .ok c) ∧
    IsCeilDiv 1 4 1 ∧ (0 : Int) + 1 + 0 + 1 - 1 ≤ 1 := by
  refine ⟨⟨?_, by decide, by decide, ⟨by decide, ?_⟩, ⟨by decide, ?_⟩, by decide,
      by norm_num [ratioValue, referenceParams]⟩,
    by decide, by decide, ⟨by decide, ?_⟩, by decide⟩
  · intro d hd
    fin_cases hd
    · exact ⟨by decide, nofun⟩
    · exact ⟨by decide, by rintro k ⟨⟩; decide⟩
    · exact ⟨by decide, by rintro k ⟨⟩; decide⟩
  all_goals intro r hr; omega

theorem witness_BuiltSettingsAreInRange : buildSettings referenceParams = .ok referenceSettings := by
  decide

/-- An error in place of an instance, with each of the three scripts. -/
theorem witness_NoTickRunsAfterConstructionError :
    ∃ s : State, s.block = .failed .invalidLatencyConfiguration ∧ s.script = [] ∧
      ¬ IsConstruct .oe ∧
      (s.withScript [.tick quietInput]).script = [.tick quietInput] ∧
      (s.withScript [.construct 3#2 referenceArgs]).script = [.construct 3#2 referenceArgs] ∧
      paramsLegal referenceArgs.params = true ∧
      buildSettings referenceArgs.params = .ok referenceSettings :=
  ⟨raiseConstruct State.reset .invalidLatencyConfiguration, rfl, rfl, by simp [IsConstruct], rfl, rfl,
    by decide, by decide⟩

/-- Each precondition broken by operands of its own. -/
theorem witness_IllFormedParametersAreRefused :
    (({ referenceParams with dataBits := 0 } : Params).dataBits = 0 ∧
      ({ referenceParams with dataBits := 12 } : Params).dataBits % 8 ≠ 0 ∧
      ({ referenceParams with addrBits := 0 } : Params).addrBits = 0 ∧
      ({ referenceParams with bankBits := 0 } : Params).bankBits = 0 ∧
      ({ referenceParams with nRanks := 0 } : Params).nRanks = 0 ∧
      ratioPositive ({ referenceParams with fSys := { num := 0, den := 1 } } : Params).fSys = false ∧
      ratioPositive ({ referenceParams with fIoRef := { num := 1, den := 0 } } : Params).fIoRef = false ∧
      2 ^ ({ referenceParams with tapBase := 32 } : Params).tapBits ≤ 32 ∧
      ({ referenceParams with bitslipDepth := 0 } : Params).bitslipDepth < 1 ∧
      (∃ w, ({ referenceParams with dqsPattern := some [true] } : Params).dqsPattern = some w ∧
        w.length ≠ 2 * referenceParams.phases) ∧
      ∃ w, ({ referenceParams with wlevelPattern := some [true] } : Params).wlevelPattern = some w ∧
        w.length ≠ 2 * referenceParams.phases) ∧
    (∃ e ∈ [(Family.other 0, tableT.reverse), attestedEntry], binsAscending e.2 = false) ∧
    ∀ bins, binsOf [(.other 0, tableT)] .ddr3 = some bins →
      ∀ b ∈ bins, ¬ (ratioValue b.f = 800000000 ∧ b.cl = 6 ∧ b.cwl = 5) :=
  ⟨⟨rfl, by decide, rfl, rfl, rfl, rfl, rfl, by decide, by decide, ⟨_, rfl, by decide⟩, _, rfl, by decide⟩,
    ⟨_, List.mem_cons_self, by decide⟩, nofun⟩

/-- With and without output delay lines. -/
theorem witness_NewInstanceIsInPowerOnState :
    (paramsLegal State.reset.args.params = true ∧
      buildSettings State.reset.args.params = .ok referenceSettings ∧
      State.reset.args.params.hasOdelay = true) ∧
    paramsLegal (buildState plainParams).args.params = true ∧
      buildSettings (buildState plainParams).args.params = .ok referenceSettings := by decide

theorem witness_InputTapPulsesActOnSelectedLanes :
    (stateOf calPhy).block = .live calPhy ∧ PhyInv calPhy ∧ bitAt calPhy.laneSelect 0 = true ∧
      bitAt calPhy.laneSelect 1 = false ∧ lanesOf calPhy.params = 2 :=
  ⟨rfl, calPhy_inv, by decide, by decide, by decide⟩

/-- With and without output delay lines. -/
theorem witness_OutputTapPulsesActOnSelectedLanes :
    ((stateOf calPhy).block = .live calPhy ∧ PhyInv calPhy ∧ calPhy.params.hasOdelay = true) ∧
    (stateOf plainPhy).block = .live plainPhy ∧ PhyInv plainPhy ∧ plainPhy.params.hasOdelay = false :=
  ⟨⟨rfl, calPhy_inv, rfl⟩, rfl, plainPhy_inv, rfl⟩

theorem witness_RotationPulsesActOnSelectedLanes :
    (stateOf calPhy).block = .live calPhy ∧ PhyInv calPhy ∧ calPhy.rot = [7, 2] :=
  ⟨rfl, calPhy_inv, rfl⟩

theorem witness_SelWritesTheMaskAndCalNopNothing :
    (stateOf refPhy).block = .live refPhy ∧ [true, false].length = lanesOf refPhy.params := ⟨rfl, rfl⟩

/-- In both modes, and without the leveling controller. -/
theorem witness_LevelingOperationsWriteModeAndStrobe :
    ((stateOf levelPhy).block = .live levelPhy ∧ levelPhy.params.hasWlevel = true ∧
      levelPhy.wlevelEn = true) ∧
    ((stateOf refPhy).block = .live refPhy ∧ refPhy.params.hasWlevel = true ∧
      refPhy.wlevelEn = false) ∧
    (stateOf plainPhy).block = .live plainPhy ∧ plainPhy.params.hasWlevel = false :=
  ⟨⟨rfl, rfl, rfl⟩, ⟨rfl, rfl, rfl⟩, rfl, rfl⟩

theorem witness_BusReadsReturnStoredValues :
    ((stateOf calPhy).block = .live calPhy ∧ calPhy.params.hasWlevel = true) ∧
    (stateOf plainPhy).block = .live plainPhy ∧ plainPhy.params.hasWlevel = false :=
  ⟨⟨rfl, rfl⟩, rfl, rfl⟩

/-- An operation with an operand, one of `TICK`, and one of an optional part. -/
theorem witness_DecodeOfEncodeSelectsTheOperation :
    (Instr.sel [false, true]).wellFormed resetVariant = true ∧
    Instr.bsAlign.wellFormed resetVariant = true ∧
    (Instr.wlevelEn true).wellFormed resetVariant = true ∧
    Instr.rdTapBase.wellFormed (variantOf plainParams) = true := by decide

/-- No operation at all, and the most that one word can carry. -/
theorem witness_ControlWordCarriesEveryAllowedCombination :
    NoConflict [] ∧ [true, false].length = resetVariant.lanes ∧
    ([Instr.rdlyRst, .bsInc, .wdlyRst, .wlevelStb, .wlevelEn true, .sel [true, false]]).Sublist
      (ctlCanon true [true, false]) ∧
    (∀ i ∈ [Instr.rdlyRst, .bsInc, .wdlyRst, .wlevelStb, .wlevelEn true, .sel [true, false]],
      i.wellFormed resetVariant = true) ∧
    NoConflict [.rdlyRst, .bsInc, .wdlyRst, .wlevelStb, .wlevelEn true, .sel [true, false]] := by
  refine ⟨by simp [NoConflict], rfl, by decide, by decide, by simp [NoConflict]⟩

theorem witness_EncodeOfDecodeKeepsEveryReadBit :
    decode resetVariant (.ctl (bitsOfNat 12 0xD80)) = .ok [.wlevelEn true] := by decide

/-- `SEL_WDATA` differs while bit 9 is 0, and bit 8 while bit 7 is 0. -/
theorem witness_IgnoredOperandBitsHaveNoEffect :
    (stateOf calPhy).block = .live calPhy ∧ calPhy.params.hasWlevel = true ∧
    SameCtl (variantOf calPhy.params) (ctlInput 0x002).ctl (bitsOfNat 12 0xD02) ∧
    ∃ t, runTick (stateOf calPhy) (ctlInput 0x002) = .next t := by
  refine ⟨rfl, rfl, ⟨?_, by decide, by decide⟩, _, rfl⟩
  rintro j (hj | rfl)
  · interval_cases j <;> rfl
  · rfl

/-- Registers 0 and 9, the first absent number, and an absent optional register. -/
theorem witness_BusWriteBecomesOneOperation :
    registerPresent resetVariant (0#4).toNat = true ∧ registerPresent resetVariant (9#4).toNat = true ∧
    registerPresent resetVariant (10#4).toNat = false ∧
    registerPresent (variantOf plainParams) (6#4).toNat = false := by decide

theorem witness_FlowFlagsSetTheirWire : (stateOf refPhy).block = .live refPhy := rfl

theorem witness_WriteTrackingShifts :
    (sigState refPhy { Signals.idle with wren := true }).block = .live refPhy ∧ PhyInv refPhy :=
  ⟨rfl, refPhy_inv⟩

/-- In both modes. -/
theorem witness_ReadTrackingShiftsAndShowsItsLastPosition :
    ((stateOf refPhy).block = .live refPhy ∧ PhyInv refPhy) ∧
    (stateOf levelPhy).block = .live levelPhy ∧ PhyInv levelPhy :=
  ⟨⟨rfl, refPhy_inv⟩, rfl, levelPhy_inv⟩

/-- With the least and with the default centre: `WL = 1`, where position `d - 2` is the current input,
and `WL = 2`. -/
theorem witness_WriteFlagsReadTheirPositions :
    ((stateOf twoPhy).block = .live twoPhy ∧ PhyInv twoPhy ∧ twoPhy.settings.writeLatency = 1 ∧
      dqsSysLatencyOf twoPhy.params 1 = 1) ∧
    (stateOf refPhy).block = .live refPhy ∧ PhyInv refPhy ∧ refPhy.settings.writeLatency = 2 ∧
      dqsSysLatencyOf refPhy.params 2 = 2 :=
  ⟨⟨rfl, twoPhy_inv, rfl, rfl⟩, rfl, refPhy_inv, rfl, rfl⟩

/-- With and without the optional pins. -/
theorem witness_CommandPinsHoldThePhaseBit :
    ((stateOf refPhy).block = .live refPhy ∧ refPhy.params.hasCs = true ∧
      refPhy.params.hasReset = true) ∧
    (stateOf { refPhy with params := { referenceParams with hasCs := false, hasReset := false } }).block =
      .live { refPhy with params := { referenceParams with hasCs := false, hasReset := false } } := by
  exact ⟨⟨rfl, rfl, rfl⟩, rfl⟩

theorem witness_DataAndMaskPinsCarryBothHalves :
    (phasesState twoPhy [dataPhase 0xA50F, maskPhase 2]).block = .live twoPhy := rfl

/-- The leveling pulse, leveling without it, a zero window, and the toggle pattern. -/
theorem witness_StrobeWordHasThreeSources :
    (PhyInv levelPhy ∧ (levelPhy.params.hasWlevel && levelPhy.wlevelEn) = true ∧
      (sigState levelPhy { Signals.idle with strobe := true }).block = .live levelPhy ∧
      (sigState levelPhy { Signals.idle with strobe := true }).sig.strobe = true ∧
      (stateOf levelPhy).sig.strobe = false) ∧
    PhyInv refPhy ∧ (refPhy.params.hasWlevel && refPhy.wlevelEn) = false ∧
      (sigState refPhy { Signals.idle with dqsPost := true }).sig.dqsPost = true ∧
      ((stateOf refPhy).sig.dqsPre || (stateOf refPhy).sig.dqsPost) = false ∧
      refPhy.params.dqsPattern = none :=
  ⟨⟨levelPhy_inv, rfl, rfl, rfl, rfl⟩, refPhy_inv, rfl, rfl, rfl, rfl⟩

/-- With the data pins open and with them closed. -/
theorem witness_TristateFollowsTheEnables :
    (sigState twoPhy { Signals.idle with dq := [bitsOfNat 4 7], oe := true }).block = .live twoPhy ∧
    (sigState twoPhy { Signals.idle with dq := [bitsOfNat 4 7] }).block = .live twoPhy := ⟨rfl, rfl⟩

/-- With a delay line and with `SER_DEPTH = 0`. -/
theorem witness_SerializerDelayLineMovesOnePlace :
    ((stateOf refPhy).block = .live refPhy ∧ PhyInv refPhy ∧ refPhy.params.serDepth = 2) ∧
    PhyInv (powerOnPhy 0 { referenceParams with serDepth := 0 } { referenceSettings with readLatency := 6 }) :=
  ⟨⟨rfl, refPhy_inv, rfl⟩, powerOnPhy_inv 0 (by decide) (by decide)⟩

/-- With a delay line and with `DES_DEPTH = 0`. -/
theorem witness_DeserializerDelayLineMovesOnePlace :
    ((stateOf refPhy).block = .live refPhy ∧ PhyInv refPhy ∧ refPhy.params.desDepth = 2) ∧
    PhyInv (powerOnPhy 0 { referenceParams with desDepth := 0 } { referenceSettings with readLatency := 6 }) :=
  ⟨⟨rfl, refPhy_inv, rfl⟩, powerOnPhy_inv 0 (by decide) (by decide)⟩

/-- With a pipe behind the aligner and with `BITSLIP_DEPTH = 1`. -/
theorem witness_AlignerSelectsFromTheRotation :
    ((sigState calPhy { Signals.idle with group := List.replicate 16 (bitsOfNat 8 0x3C) }).block =
        .live calPhy ∧ PhyInv calPhy ∧ calPhy.params.bitslipDepth = 3 ∧
      WordsWf calPhy.params.phases calPhy.params.dataBits (List.replicate 16 (bitsOfNat 8 0x3C))) ∧
    PhyInv (powerOnPhy 0 { referenceParams with bitslipDepth := 1 }
      { referenceSettings with readLatency := 6 }) :=
  ⟨⟨rfl, calPhy_inv, rfl, by decide, by decide⟩, powerOnPhy_inv 0 (by decide) (by decide)⟩

/-- The word of V8 at rotations 0 and 7. -/
theorem witness_RotationRecoversAnOffsetWord :
    (0 < 2 * 4 ∧ (∀ k, k < 2 * 4 - 0 → bitAt (bitsOfNat 8 0xA7) (0 + k) = bitAt (bitsOfNat 8 0xA7) k) ∧
      ∀ k, k < 0 → bitAt (bitsOfNat 8 0x3C) k = bitAt (bitsOfNat 8 0xA7) (2 * 4 - 0 + k)) ∧
    7 < 2 * 4 ∧ (∀ k, k < 2 * 4 - 7 → bitAt (bitsOfNat 8 0xA7) (7 + k) = bitAt (bitsOfNat 8 0x79) k) ∧
      ∀ k, k < 7 → bitAt (bitsOfNat 8 0x3C) k = bitAt (bitsOfNat 8 0x79) (2 * 4 - 7 + k) := by decide

theorem witness_ReadDataIsAssembledFromTheGroups :
    (sigState twoPhy { Signals.idle with aligned := List.replicate 8 (bitsOfNat 4 9) }).block =
      .live twoPhy := rfl

theorem witness_AssemblingSerializedDataGivesItBack :
    1 < twoParams.phases ∧
    (phaseAt { quietInput with phases := [dataPhase 0xA50F, dataPhase 0x3CC3] } 1).wrdata.length =
      2 * twoParams.dataBits := by decide

theorem witness_StepRunsTheConstructionFunction :
    (State.reset.withScript [.construct 1#2 referenceArgs]).script = [.construct 1#2 referenceArgs] ∧
    decode resetVariant (.fn 1#2) = .ok [.sysLatency] := by decide

/-- A tick of the script with a bus read, and the idle tick. -/
theorem witness_StepRunsTheSelectedOperations :
    ((tickState calPhy { ctlInput 0x042 with busRead := some 0#4 }).script =
        [.tick { ctlInput 0x042 with busRead := some 0#4 }] ∧
      decode (variantOf calPhy.params) (.ctl (ctlInput 0x042).ctl) = .ok [.rdlyInc, .wlevelStb] ∧
      decode (variantOf calPhy.params) (.reg 0#4) = .ok [.rdLaneSelect]) ∧
    State.reset.block = .live refPhy ∧ State.reset.script = [] ∧
    decode (variantOf refPhy.params) (.ctl (idleInputOf State.reset).ctl) = .ok [.calNop] ∧
    (idleInputOf State.reset).busRead = none := by
  refine ⟨⟨rfl, by decide, by decide⟩, rfl, rfl, by decide, rfl⟩

theorem witness_TickIsTheSimultaneousStep :
    (tickState refPhy quietInput).block = .live refPhy ∧ PhyInv refPhy ∧
    (tickState refPhy quietInput).script = [.tick quietInput] ∧ Accepted refPhy quietInput :=
  ⟨rfl, refPhy_inv, rfl, quiet_accepted⟩

/-- A step from reset, and one in which a construction succeeds. -/
theorem witness_EveryStepKeepsTheInvariant :
    Inv State.reset ∧ (∃ t, step State.reset = .next t) ∧
    ∃ t, step (State.reset.withScript [.construct 3#2 referenceArgs]) = .next t := by
  refine ⟨?_, ⟨_, rfl⟩, _, rfl⟩
  intro x hx
  cases hx
  exact refPhy_inv

/-- A tick of the script, and the idle tick. -/
theorem witness_TickIsTotalOnAcceptedInputs :
    ((tickState refPhy quietInput).block = .live refPhy ∧ PhyInv refPhy ∧
      (tickState refPhy quietInput).script = [.tick quietInput] ∧ Accepted refPhy quietInput) ∧
    (stateOf refPhy).script = [] :=
  ⟨⟨rfl, refPhy_inv, rfl, quiet_accepted⟩, rfl⟩

/-- Each refused bit of the plain instance, each conflict of the reference instance, and the conflicts
that the plain instance has. -/
theorem witness_ReservedControlWordsAreRefused :
    ((tickState plainPhy (ctlInput 0x010)).block = .live plainPhy ∧ plainPhy.params.hasOdelay = false ∧
      plainPhy.params.hasWlevel = false ∧ bitAt (ctlInput 0x010).ctl 4 = true ∧
      bitAt (ctlInput 0x020).ctl 5 = true ∧ bitAt (ctlInput 0x040).ctl 6 = true ∧
      bitAt (ctlInput 0x080).ctl 7 = true ∧ bitAt (ctlInput 0x100).ctl 8 = true) ∧
    ((tickState refPhy (ctlInput 0x003)).script = [.tick (ctlInput 0x003)] ∧
      refPhy.params.hasOdelay = true ∧ refPhy.params.hasWlevel = true ∧
      bitAt (ctlInput 0x030).ctl 4 = true ∧ bitAt (ctlInput 0x030).ctl 5 = true) ∧
    (bitAt (ctlInput 0x003).ctl 0 = true ∧ bitAt (ctlInput 0x003).ctl 1 = true) ∧
    (bitAt (ctlInput 0x00C).ctl 2 = true ∧ bitAt (ctlInput 0x00C).ctl 3 = true) ∧
    ∀ w ∈ [0x003, 0x00C], ∀ j ∈ [4, 5, 6, 7, 8], bitAt (ctlInput w).ctl j = false :=
  ⟨⟨rfl, by decide⟩, ⟨rfl, by decide⟩, by decide, by decide, by decide⟩

/-- Numbers 10 and 15 everywhere, 5 to 8 on the plain instance. -/
theorem witness_AbsentRegisterReadIsRefused :
    ((tickState refPhy { quietInput with busRead := some 10#4 }).script =
        [.tick { quietInput with busRead := some 10#4 }] ∧
      ctlRefusal (variantOf refPhy.params) quietInput.ctl = none ∧
      9 < (10#4).toNat ∧ 9 < (15#4).toNat) ∧
    ctlRefusal (variantOf plainPhy.params) quietInput.ctl = none ∧
    plainPhy.params.hasOdelay = false ∧ plainPhy.params.hasWlevel = false ∧
    (5#4).toNat = 5 ∧ (6#4).toNat = 6 ∧ (7#4).toNat = 7 ∧ (8#4).toNat = 8 := by decide

/-- A read of a register that holds a value, and of a pulse register. -/
theorem witness_BusReadHasNoSideEffect :
    (stateOf calPhy).block = .live calPhy ∧ PhyInv calPhy ∧
    Accepted calPhy { ctlInput 0x002 with busRead := some 0#4 } ∧
    Accepted calPhy { ctlInput 0x002 with busRead := some 1#4 } :=
  ⟨rfl, calPhy_inv, ⟨by decide, by rintro r ⟨⟩; decide⟩, by decide, by rintro r ⟨⟩; decide⟩

/-- `SEL` together with an increment of each counter, and resets without `SEL`. -/
theorem witness_PulsesUseTheMaskOfThePreState :
    (stateOf calPhy).block = .live calPhy ∧ PhyInv calPhy ∧
    (∀ w ∈ [0xA2A, 0x015], ∃ t y, runTick (stateOf calPhy) (ctlInput w) = .next t ∧ t.block = .live y) ∧
    bitAt (ctlInput 0xA2A).ctl 9 = true ∧ bitAt (ctlInput 0x015).ctl 9 = false ∧
    bitAt calPhy.laneSelect 0 = true ∧ bitAt calPhy.laneSelect 1 = false ∧
    (∀ j ∈ [0, 2, 4], bitAt (ctlInput 0x015).ctl j = true) ∧
    ∀ j ∈ [1, 3, 5], bitAt (ctlInput 0xA2A).ctl j = true := by
  refine ⟨rfl, calPhy_inv, ?_, by decide, by decide, by decide, by decide, by decide, by decide⟩
  intro w hw
  fin_cases hw <;> exact ⟨_, _, rfl, rfl⟩

theorem witness_UnselectedLanesKeepTheirCalibration :
    (stateOf calPhy).block = .live calPhy ∧ bitAt calPhy.laneSelect 1 = false ∧
    ∃ t y, runTick (stateOf calPhy) (ctlInput 0x02A) = .next t ∧ t.block = .live y :=
  ⟨rfl, rfl, _, _, rfl, rfl⟩

/-- A quiet control word, and two ticks with one control word from states that differ in everything but
the parameters and the calibration state. -/
theorem witness_TrafficLeavesCalibrationStateAlone :
    (stateOf calPhy).block = .live calPhy ∧ (∀ j, j < 8 ∨ j = 9 → bitAt quietInput.ctl j = false) ∧
    wrenInput.ctl = quietInput.ctl ∧
    (∃ t y, runTick (stateOf calPhy) quietInput = .next t ∧ t.block = .live y) ∧
    (stateOf { calPhy with wrTail := true, serPipe := [] }).block =
      .live { calPhy with wrTail := true, serPipe := [] } ∧
    SameCalibration { calPhy with wrTail := true, serPipe := [] } calPhy ∧
    ∃ v w, runTick (stateOf { calPhy with wrTail := true, serPipe := [] }) wrenInput = .next v ∧
      v.block = .live w := by
  refine ⟨rfl, ?_, rfl, ⟨_, _, rfl, rfl⟩, rfl, ⟨rfl, rfl, rfl, rfl, rfl⟩, _, _, rfl, rfl⟩
  rintro j (hj | rfl)
  · interval_cases j <;> rfl
  · rfl

theorem witness_TrackingRegistersShiftInEveryTick :
    (stateOf refPhy).block = .live refPhy ∧ PhyInv refPhy ∧
    ∃ t y, runTick (stateOf refPhy) wrenInput = .next t ∧ t.block = .live y :=
  ⟨rfl, refPhy_inv, _, _, rfl, rfl⟩

theorem witness_TicksKeepTheConstants :
    (stateOf refPhy).block = .live refPhy ∧ 1 ≤ [wrenInput].length ∧
    ∃ t, afterTicks (stateOf refPhy) [wrenInput] 1 = .next t :=
  ⟨rfl, by decide, _, rfl⟩

/-- With the leveling pulse and without it. -/
theorem witness_LevelingForcesStrobeAndReadValid :
    (stateOf levelPhy).block = .live levelPhy ∧ PhyInv levelPhy ∧ levelPhy.params.hasWlevel = true ∧
    levelPhy.wlevelEn = true ∧ Accepted levelPhy (ctlInput 0x040) ∧ Accepted levelPhy quietInput :=
  ⟨rfl, levelPhy_inv, rfl, rfl, accepted_of (by decide) rfl, accepted_of (by decide) rfl⟩

/-- Nothing is in flight in the reference instance at power-on. -/
theorem refPhy_quiet : NoWriteInFlight refPhy ∧ NoReadInFlight refPhy := by
  have h (n p : Nat) : bitAt (List.replicate n false) p = false := by
    simp [bitAt, List.getD, List.getElem?_replicate]
    split <;> rfl
  exact ⟨⟨h _, rfl⟩, h _⟩

/-- The first tick with a full history, `n = WL + 3`, and tick 0 of an instance at power-on. -/
theorem witness_WriteFlagsFollowTheEnableHistory :
    (stateOf refPhy).block = .live refPhy ∧ PhyInv refPhy ∧ (∀ i ∈ loneWrite 3, Accepted refPhy i) ∧
    2 = refPhy.settings.writeLatency ∧ 2 = dqsSysLatencyOf refPhy.params 2 ∧
    (5 < (loneWrite 3).length ∧ 2 + 3 ≤ 5) ∧ 0 < (loneWrite 3).length ∧ NoWriteInFlight refPhy :=
  ⟨rfl, refPhy_inv, fun i hi => (loneWrite_accepted 3 i hi).1, rfl, rfl, by decide, by decide,
    refPhy_quiet.1⟩

/-- Tick 5 is the preamble for `m = 4`, the first open tick for `m = 3`, the postamble for `m = 0`. -/
theorem witness_LoneWriteEnableOpensThreeTicks :
    (stateOf refPhy).block = .live refPhy ∧ PhyInv refPhy ∧ refPhy.wlevelEn = false ∧
    2 = refPhy.settings.writeLatency ∧ dqsSysLatencyOf refPhy.params 2 = 2 ∧
    ∀ m ∈ [0, 3, 4], (∀ i ∈ loneWrite m, Accepted refPhy i ∧ bitAt i.ctl 7 = false) ∧
      5 < (loneWrite m).length ∧
      ∀ k < (loneWrite m).length, wrenOf refPhy (inputAt (loneWrite m) k) = decide (k = m) :=
  ⟨rfl, refPhy_inv, rfl, rfl, rfl, fun m hm =>
    ⟨loneWrite_accepted m, by simp [loneWrite], fixedWrite m hm⟩⟩

/-- The first tick with a full history, `n = read_latency - 1`, and the tick before it of an instance at
power-on. -/
theorem witness_ReadEnableReturnsAsReadValid :
    (stateOf refPhy).block = .live refPhy ∧ PhyInv refPhy ∧
    (∀ i ∈ loneWrite 0, Accepted refPhy i ∧ bitAt i.ctl 7 = false) ∧ refPhy.wlevelEn = false ∧
    (7 < (loneWrite 0).length ∧ refPhy.settings.readLatency - 1 ≤ 7) ∧ 6 < (loneWrite 0).length ∧
    NoReadInFlight refPhy :=
  ⟨rfl, refPhy_inv, loneWrite_accepted 0, rfl, by decide, by decide, refPhy_quiet.2⟩

/-- The first tick with a full history: `n = DES_DEPTH + BITSLIP_DEPTH`. -/
theorem witness_ReadDataIsThePinsRotated :
    (stateOf calPhy).block = .live calPhy ∧ PhyInv calPhy ∧ (∀ i ∈ loneWrite 0, Accepted calPhy i) ∧
    5 < (loneWrite 0).length ∧ calPhy.params.desDepth + calPhy.params.bitslipDepth ≤ 5 :=
  ⟨rfl, calPhy_inv, fun i hi => (loneWrite_accepted 0 i hi).1, by decide, by decide⟩

/-- The last tick in which power-on entries are on the pads, and the first after them. -/
theorem witness_PadsShowTheDelayedDrive :
    (stateOf refPhy).block = .live refPhy ∧ PhyInv refPhy ∧ (∀ i ∈ loneWrite 0, Accepted refPhy i) ∧
    2 < (loneWrite 0).length ∧ refPhy.params.serDepth ≤ 2 ∧ 1 < refPhy.params.serDepth ∧
    ∀ e ∈ refPhy.serPipe, (∀ q ∈ e.dq, q.en = false) ∧ ∀ q ∈ e.dqs, q.en = false := by
  refine ⟨rfl, refPhy_inv, fun i hi => (loneWrite_accepted 0 i hi).1, by decide, by decide, by decide, ?_⟩
  intro e he
  obtain ⟨entry, -, rfl⟩ := List.mem_map.mp he
  exact ⟨fun q hq => powerOnPins_en hq, fun q hq => powerOnPins_en hq⟩

/-- Different taps, and an input tap reset against an increment of both taps. -/
theorem witness_TapsDoNotReachTheDatapath :
    (stateOf refPhy).block = .live refPhy ∧
    (stateOf { refPhy with inTap := [31, 4], outTap := [31, 3] }).block =
      .live { refPhy with inTap := [31, 4], outTap := [31, 3] } ∧
    PhyInv refPhy ∧ PhyInv { refPhy with inTap := [31, 4], outTap := [31, 3] } ∧
    Accepted refPhy (ctlInput 0x009) ∧ Accepted refPhy (ctlInput 0x02A) ∧
    inputAt [ctlInput 0x02A] 0 = { inputAt [ctlInput 0x009] 0 with ctl := bitsOfNat 12 0x02A } ∧
    ∀ c, c ≠ 0 → c ≠ 1 → c ≠ 4 → c ≠ 5 →
      bitAt (bitsOfNat 12 0x02A) c = bitAt (inputAt [ctlInput 0x009] 0).ctl c := by
  refine ⟨rfl, rfl, refPhy_inv,
    { refPhy_inv with inTap := by decide, inTapBound := by decide, outTap := by decide,
                      outTapBound := by decide },
    accepted_of (by decide) rfl, accepted_of (by decide) rfl, rfl, ?_⟩
  intro c h0 h1 h4 h5
  by_cases hc : c < 12
  · interval_cases c <;> first | rfl | contradiction
  · simp [bitAt, bitsOfNat, wordOf, inputAt, ctlInput, hc]

/-- A value past the width of both counters. -/
theorem witness_SetScriptsReachTheirValue :
    (stateOf calPhy).block = .live calPhy ∧ PhyInv calPhy ∧ calPhy.params.hasOdelay = true ∧
    33 % 2 ^ calPhy.params.tapBits = 1 ∧ 33 % (2 * calPhy.params.phases) = 1 :=
  ⟨rfl, calPhy_inv, rfl, by decide, by decide⟩

theorem witness_RotationIsCyclic :
    (stateOf calPhy).block = .live calPhy ∧ PhyInv calPhy := ⟨rfl, calPhy_inv⟩

/-- With and without output delay lines. -/
theorem witness_CalZeroZeroesEveryLane :
    ((stateOf calPhy).block = .live calPhy ∧ PhyInv calPhy ∧ calPhy.params.hasOdelay = true) ∧
    (stateOf plainPhy).block = .live plainPhy ∧ PhyInv plainPhy ∧ plainPhy.params.hasOdelay = false :=
  ⟨⟨rfl, calPhy_inv, rfl⟩, rfl, plainPhy_inv, rfl⟩

end Sys2Proof.Machine
end

/-! ## Serializer and deserializer delay lines (41_serdes.md R127, R129) -/

section
namespace Sys2Proof.Machine

theorem exec_serPipe_live {s : State} {x : Phy} (h : s.block = .live x) :
    exec .serPipe s = .next ((s.withPhy (pushSer x s.sig.drive)).withOut
      { s.out with pads := padsOf (shiftOut s.sig.drive x.serPipe) }) :=
  onLive_live h _

theorem exec_desDq_live {s : State} {x : Phy} (h : s.block = .live x) :
    exec .desDq s = .next ((s.withPhy (pushDes x (sampledOf x.params s.inp))).withSig
      { s.sig with group := shiftOut (sampledOf x.params s.inp) x.desPipe }) :=
  onLive_live h _

theorem sampledOf_getD {p : Params} {pin : Nat} (h : pin < p.dataBits) (i : TickInput) :
    (sampledOf p i).getD pin [] = fitBits (2 * p.phases) (i.pinIn.getD pin []) := by
  simp [sampledOf, List.getD, h]

theorem sampledOf_wf (p : Params) (i : TickInput) : WordsWf p.phases p.dataBits (sampledOf p i) := by
  refine ⟨by simp [sampledOf], fun w hw => ?_⟩
  obtain ⟨pin, -, rfl⟩ := List.mem_map.mp hw
  exact fitBits_length _ _

/-- Settles O31: the delay line and its oldest entry are `shiftIn` and `shiftOut`. -/
theorem serializerDelayLineMovesOnePlace : Obligations.SerializerDelayLineMovesOnePlace := by
  intro s x hx inv
  exact ⟨shiftIn s.sig.drive x.serPipe, shiftOut s.sig.drive x.serPipe, exec_serPipe_live hx,
    (shiftIn_length _ _).trans inv.serPipe, shiftIn_append_shiftOut _ _⟩

/-- Settles O32: the sampled words enter the delay line, its oldest entry goes to the aligner. -/
theorem deserializerDelayLineMovesOnePlace : Obligations.DeserializerDelayLineMovesOnePlace := by
  intro s x hx inv
  refine ⟨shiftIn (sampledOf x.params s.inp) x.desPipe, shiftOut (sampledOf x.params s.inp) x.desPipe,
    sampledOf x.params s.inp, exec_desDq_live hx, (shiftIn_length _ _).trans inv.desPipe,
    shiftIn_append_shiftOut _ _, sampledOf_wf _ _, fun pin hpin j hj => ?_⟩
  rw [sampledOf_getD hpin, bitAt_fitBits, if_pos hj]

end Sys2Proof.Machine
end

/-! ## The operations of an accepted tick (46_system_tick.md R202) -/

section
namespace Sys2Proof.Machine

theorem ctlOps_subset (v : Variant) (w : Bits) : ctlOps v w ⊆ ctlCanon (bitAt w 8) (selWdata v w) := by
  intro op h
  simp only [ctlOps, List.mem_append, List.mem_ite_nil_right, List.mem_singleton] at h
  simp only [ctlCanon, List.mem_cons, List.not_mem_nil]
  tauto

/-- An accepted control word selects operations of its own format only. -/
theorem decodeCtl_subset {v : Variant} {w : Bits} {cal : List Instr} (h : decodeCtl v w = .ok cal) :
    cal ⊆ .calNop :: ctlCanon (bitAt w 8) (selWdata v w) := by
  unfold decodeCtl at h
  split at h
  · cases h
  · cases h
    cases hops : ctlOps v w with
    | nil => exact List.cons_subset_cons _ (List.nil_subset _)
    | cons i rest =>
      rw [orCalNop, ← hops]
      exact List.subset_cons_of_subset _ (ctlOps_subset v w)

/-- An accepted bus read selects a read operation or nothing. -/
theorem busOps_subset {v : Variant} {r : Option (BitVec 4)} {bus : List Instr}
    (h : busOps v r = .ok bus) : bus ⊆ [.rdLaneSelect, .rdWlevelEn, .rdTapBase] := by
  cases r with
  | none => cases h; exact List.nil_subset _
  | some r =>
    simp only [busOps, decode, decodeReg] at h
    split_ifs at h <;> cases h <;> decide

/-- All that an accepted tick runs: its schedule over the bus read, the flow word and the control word. -/
theorem decodeTick_ok {x : Phy} {i : TickInput} {ops : List Instr} (h : decodeTick x i = .ok ops) :
    ∃ bus cal, decodeCtl (variantOf x.params) i.ctl = .ok cal ∧
      busOps (variantOf x.params) i.busRead = .ok bus ∧
      ops = schedule bus (decodeFlow (flowWord x i)) cal := by
  unfold decodeTick at h
  split at h
  · cases h
  · split at h
    · cases h
    · cases h
      exact ⟨_, _, ‹_›, ‹_›, rfl⟩

/-- The induction over the operations of a tick, once for every view `R` of the state that each single
operation carries along an effect on the view. -/
theorem runOps_foldl {α : Type} {R : State → α → Prop} {effect : Instr → α → α} {allowed : Instr → Prop}
    (hexec : ∀ {i s t a}, allowed i → R s a → exec i s = .next t → R t (effect i a))
    {ops : List Instr} (hops : ∀ i ∈ ops, allowed i) {s t : State} {a : α} (ha : R s a)
    (h : runOps ops s = .next t) : R t (ops.foldl (fun b i => effect i b) a) := by
  induction ops generalizing s a with
  | nil => cases h; exact ha
  | cons i rest ih =>
    obtain ⟨u, hu, hrest⟩ := runOps_cons_inv h
    obtain ⟨hi, hr⟩ := List.forall_mem_cons.mp hops
    exact ih hr (hexec hi ha hu) hrest

theorem onLive_next_of_live {s t : State} {x : Phy} (hx : s.block = .live x) {f : Phy → Result}
    (h : onLive s f = .next t) : f x = .next t := by
  rwa [onLive_live hx] at h

end Sys2Proof.Machine
end

/-! ## The tracking registers through a tick (10_state.md R30 to R33) -/

section
namespace Sys2Proof.Machine

/-- The part of a state that the tracking registers live in: the two flow flags, the registers, and the
constant `WL` that places `wr_tail`. -/
structure FlowView where
  wren : Bool
  rden : Bool
  wrSr : List Bool
  wrTail : Bool
  rdSr : List Bool
  writeLatency : Nat

/-- `v` is what the state shows of its tracking registers. -/
def ShowsFlow (s : State) (v : FlowView) : Prop :=
  ∃ x, s.block = .live x ∧
    v = { wren := s.sig.wren, rden := s.sig.rden, wrSr := x.wrSr, wrTail := x.wrTail, rdSr := x.rdSr,
          writeLatency := x.settings.writeLatency }

/-- The write-enable register and its tail after `WR_TRACK` (42_flow_control.md R141). -/
def FlowView.shiftWrite (v : FlowView) : FlowView :=
  { v with wrSr := shiftIn v.wren v.wrSr, wrTail := bitAt v.wrSr (v.writeLatency + 1) }

/-- The read-enable register after `RD_TRACK` (42_flow_control.md R151). -/
def FlowView.shiftRead (v : FlowView) : FlowView := { v with rdSr := shiftIn v.rden v.rdSr }

/-- Only four operations touch the view: the two flags and the two shifts. -/
def flowEffect : Instr → FlowView → FlowView
  | .wren, v => { v with wren := true }
  | .rden, v => { v with rden := true }
  | .wrTrack, v => v.shiftWrite
  | .rdTrack, v => v.shiftRead
  | _, v => v

theorem exec_showsFlow {i : Instr} {s t : State} {v : FlowView} (hi : ¬ IsConstruct i)
    (hv : ShowsFlow s v) (h : exec i s = .next t) : ShowsFlow t (flowEffect i v) := by
  obtain ⟨x, hx, rfl⟩ := hv
  cases i with
  | resolve | sysLatency | phaseAssign | buildSettings => exact absurd (by simp [IsConstruct]) hi
  | wren | rden | calNop | oe | oeDqs | dqsPre | dqsPost | rdValid | serCmd | serDq | serDm | serDqs
  | tristate | rdAssemble | rdLaneSelect | rdTapBase =>
    cases onLive_next_of_live hx h
    exact ⟨x, hx, rfl⟩
  | wrTrack | rdTrack | rdlyRst | rdlyInc | bsRst | bsInc | sel wdata | serPipe | desDq | bsAlign =>
    cases onLive_next_of_live hx h
    exact ⟨_, rfl, rfl⟩
  | wdlyRst | wdlyInc | wlevelEn wdata =>
    obtain ⟨-, ht⟩ := ifPresent_next (onLive_next_of_live hx h)
    cases ht
    exact ⟨_, rfl, rfl⟩
  | wlevelStb =>
    obtain ⟨-, ht⟩ := ifPresent_next (onLive_next_of_live hx h)
    cases ht
    exact ⟨x, hx, rfl⟩
  | rdWlevelEn =>
    have hread := onLive_next_of_live hx h
    split at hread
    · cases hread
      exact ⟨x, hx, rfl⟩
    · cases hread

/-- An operation of a tick that the tracking registers do not see. -/
def FlowNeutral (i : Instr) : Prop := ¬ IsConstruct i ∧ ∀ v, flowEffect i v = v

theorem flowNeutral_of_busOps {w : Variant} {r : Option (BitVec 4)} {bus : List Instr}
    (h : busOps w r = .ok bus) : ∀ op ∈ bus, FlowNeutral op := by
  intro op hop
  have hmem := busOps_subset h hop
  simp only [List.mem_cons, List.not_mem_nil, or_false] at hmem
  rcases hmem with rfl | rfl | rfl <;> exact ⟨by simp [IsConstruct], fun _ => rfl⟩

/-- R33: no pulse and no write of `wlevel_en` enters the tracking registers. -/
theorem flowNeutral_of_decodeCtl {w : Variant} {ctl : Bits} {cal : List Instr}
    (h : decodeCtl w ctl = .ok cal) : ∀ op ∈ cal, FlowNeutral op := by
  intro op hop
  have hmem := decodeCtl_subset h hop
  simp only [ctlCanon, List.mem_cons, List.not_mem_nil, or_false] at hmem
  rcases hmem with rfl | rfl | rfl | rfl | rfl | rfl | rfl | rfl | rfl | rfl <;>
    exact ⟨by simp [IsConstruct], fun _ => rfl⟩

theorem foldl_flowEffect_of_neutral {ops : List Instr} (h : ∀ op ∈ ops, FlowNeutral op) (v : FlowView) :
    ops.foldl (fun u i => flowEffect i u) v = v := by
  induction ops with
  | nil => rfl
  | cons i rest ih =>
    obtain ⟨⟨-, hi⟩, hrest⟩ := List.forall_mem_cons.mp h
    rw [List.foldl_cons, hi, ih hrest]

/-- The flow word of a tick carries the two enables (30_encoding.md R72). -/
theorem decodeFlow_flowWord (x : Phy) (i : TickInput) :
    decodeFlow (flowWord x i) =
      (if wrenOf x i then [Instr.wren] else []) ++ (if rdenOf x i then [Instr.rden] else []) := by
  unfold decodeFlow flowWord
  cases wrenOf x i <;> cases rdenOf x i <;> rfl

theorem foldl_flowEffect_decodeFlow (x : Phy) (i : TickInput) {v : FlowView} (hw : v.wren = false)
    (hr : v.rden = false) : (decodeFlow (flowWord x i)).foldl (fun u i => flowEffect i u) v =
      { v with wren := wrenOf x i, rden := rdenOf x i } := by
  obtain ⟨wren, rden, wrSr, wrTail, rdSr, wl⟩ := v
  subst hw hr
  rw [decodeFlow_flowWord]
  cases wrenOf x i <;> cases rdenOf x i <;> rfl

theorem foldl_flowEffect_tickOrder (v : FlowView) :
    tickOrder.foldl (fun u i => flowEffect i u) v = v.shiftWrite.shiftRead := rfl

theorem not_isConstruct_of_schedule {x : Phy} {i : TickInput} {bus cal : List Instr}
    (hbus : ∀ op ∈ bus, FlowNeutral op) (hcal : ∀ op ∈ cal, FlowNeutral op) :
    ∀ op ∈ schedule bus (decodeFlow (flowWord x i)) cal, ¬ IsConstruct op := by
  intro op hop
  simp only [schedule, decodeFlow_flowWord, List.mem_append, List.mem_filter,
    List.mem_ite_nil_right, List.mem_singleton] at hop
  rcases hop with (((hop | ⟨-, rfl⟩ | ⟨-, rfl⟩) | ⟨hop, -⟩) | hop) | ⟨hop, -⟩
  · exact (hbus op hop).1
  · simp [IsConstruct]
  · simp [IsConstruct]
  · exact (hcal op hop).1
  · rintro (rfl | rfl | rfl | rfl) <;> revert hop <;> decide
  · exact (hcal op hop).1

theorem foldl_flowEffect_schedule (x : Phy) (i : TickInput) {bus cal : List Instr}
    (hbus : ∀ op ∈ bus, FlowNeutral op) (hcal : ∀ op ∈ cal, FlowNeutral op) {v : FlowView}
    (hw : v.wren = false) (hr : v.rden = false) :
    (schedule bus (decodeFlow (flowWord x i)) cal).foldl (fun u i => flowEffect i u) v =
      { v with wren := wrenOf x i, rden := rdenOf x i : FlowView }.shiftWrite.shiftRead := by
  have hfilter (p : Instr → Bool) : ∀ op ∈ cal.filter p, FlowNeutral op :=
    fun op hop => hcal op (List.mem_filter.mp hop).1
  simp only [schedule, List.foldl_append, foldl_flowEffect_of_neutral hbus,
    foldl_flowEffect_decodeFlow x i hw hr, foldl_flowEffect_of_neutral (hfilter _),
    foldl_flowEffect_tickOrder]

theorem beginTick_showsFlow {s : State} {x : Phy} (hx : s.block = .live x) (i : TickInput) :
    ShowsFlow (beginTick s i)
      { wren := false, rden := false, wrSr := x.wrSr, wrTail := x.wrTail, rdSr := x.rdSr,
        writeLatency := x.settings.writeLatency } :=
  ⟨x, hx, rfl⟩

/-- What a completed tick does to the tracking registers, whatever else it carries. -/
theorem runTick_tracking {s t : State} {x y : Phy} {i : TickInput} (hx : s.block = .live x)
    (h : runTick s i = .next t) (hy : t.block = .live y) :
    y.wrSr = shiftIn (wrenOf x i) x.wrSr ∧
      y.wrTail = bitAt x.wrSr (x.settings.writeLatency + 1) ∧ y.rdSr = shiftIn (rdenOf x i) x.rdSr := by
  obtain ⟨x', ops, u, hx', hops, hrun, rfl⟩ := runTick_next h
  cases hx.symm.trans hx'
  obtain ⟨bus, cal, hctl, hread, rfl⟩ := decodeTick_ok hops
  have hbus := flowNeutral_of_busOps hread
  have hcal := flowNeutral_of_decodeCtl hctl
  have hflow := runOps_foldl (R := ShowsFlow) exec_showsFlow (not_isConstruct_of_schedule hbus hcal)
    (beginTick_showsFlow hx i) hrun
  rw [foldl_flowEffect_schedule x i hbus hcal rfl rfl] at hflow
  obtain ⟨y', hy', hview⟩ := hflow
  cases hy'.symm.trans hy
  obtain ⟨-, -, hwr, htail, hrd, -⟩ := FlowView.mk.inj hview
  exact ⟨hwr.symm, htail.symm, hrd.symm⟩

theorem bitAt_last_eq_shiftOut {line : Bits} {n : Nat} (h : line.length = n + 1) (b : Bool) :
    bitAt line n = shiftOut b line := by
  have hn : n < line.length := by omega
  simp [shiftOut, List.getLast?_eq_getElem?, h, bitAt_eq_getElem hn]

/-- Settles O49: each operation of the schedule is followed on the view of the tracking registers, on which
only the two flags and the two shifts act. -/
theorem trackingRegistersShiftInEveryTick : Obligations.TrackingRegistersShiftInEveryTick := by
  intro s t x y i hx inv h hy
  obtain ⟨hwr, htail, hrd⟩ := runTick_tracking hx h hy
  constructor
  · rw [hwr, htail, bitAt_last_eq_shiftOut inv.wrSr (wrenOf x i), shiftIn_append_shiftOut]
  · exact ⟨shiftOut (rdenOf x i) x.rdSr, by rw [hrd, shiftIn_append_shiftOut]⟩

end Sys2Proof.Machine
end

/-! ## What the operations of a tick leave as it is (46_system_tick.md R202) -/

section
namespace Sys2Proof.Machine

/-- From `s` to `t` only wires, outputs and registers of the live block may have changed: its constants
(20_memory.md R68) and everything around the block stay. -/
structure TickFrame (s t : State) : Prop where
  script : t.script = s.script
  inp : t.inp = s.inp
  args : t.args = s.args
  tick : t.tick = s.tick
  builds : t.builds = s.builds
  constants : ∀ x, s.block = .live x →
    ∃ y, t.block = .live y ∧ y.params = x.params ∧ y.settings = x.settings

theorem TickFrame.refl (s : State) : TickFrame s s :=
  ⟨rfl, rfl, rfl, rfl, rfl, fun x hx => ⟨x, hx, rfl, rfl⟩⟩

theorem TickFrame.trans {s t u : State} (hst : TickFrame s t) (htu : TickFrame t u) : TickFrame s u where
  script := htu.script.trans hst.script
  inp := htu.inp.trans hst.inp
  args := htu.args.trans hst.args
  tick := htu.tick.trans hst.tick
  builds := htu.builds.trans hst.builds
  constants x hx := by
    obtain ⟨y, hy, hyp, hys⟩ := hst.constants x hx
    obtain ⟨z, hz, hzp, hzs⟩ := htu.constants y hy
    exact ⟨z, hz, hzp.trans hyp, hzs.trans hys⟩

theorem TickFrame.withSig (s : State) (g : Signals) : TickFrame s (s.withSig g) :=
  ⟨rfl, rfl, rfl, rfl, rfl, fun x hx => ⟨x, hx, rfl, rfl⟩⟩

theorem TickFrame.withOut (s : State) (o : Outputs) : TickFrame s (s.withOut o) :=
  ⟨rfl, rfl, rfl, rfl, rfl, fun x hx => ⟨x, hx, rfl, rfl⟩⟩

theorem TickFrame.withPhy {s : State} {x : Phy} (hx : s.block = .live x) (y : Phy)
    (hp : y.params = x.params) (hs : y.settings = x.settings) : TickFrame s (s.withPhy y) := by
  refine ⟨rfl, rfl, rfl, rfl, rfl, fun z hz => ?_⟩
  cases hx.symm.trans hz
  exact ⟨y, rfl, hp, hs⟩

/-- On the live block `x` the operation completes within the frame, or it is refused because the variant
does not have it. -/
def RunsInFrame (i : Instr) (s : State) (x : Phy) : Prop :=
  (∃ t, exec i s = .next t ∧ TickFrame s t) ∨
    (i.wellFormed (variantOf x.params) = false ∧ ∃ r, exec i s = .refused r)

theorem runsInFrame_of_ifPresent {i : Instr} {s t : State} {x : Phy}
    (h : exec i s = ifPresent (i.wellFormed (variantOf x.params)) (.next t)) (ht : TickFrame s t) :
    RunsInFrame i s x := by
  cases hwf : i.wellFormed (variantOf x.params) with
  | true => exact .inl ⟨t, by rw [h, hwf, ifPresent_true], ht⟩
  | false => exact .inr ⟨hwf, _, by rw [h, hwf, ifPresent_false]⟩

/-- All that an operation of a tick can do on a live block. -/
theorem exec_runsInFrame {i : Instr} {s : State} {x : Phy} (hi : ¬ IsConstruct i)
    (hx : s.block = .live x) : RunsInFrame i s x := by
  cases i with
  | resolve | sysLatency | phaseAssign | buildSettings => exact absurd (by simp [IsConstruct]) hi
  | calNop => exact .inl ⟨_, onLive_live hx _, .refl s⟩
  | wren | rden | oe | oeDqs | dqsPre | dqsPost | serCmd | serDq | serDm | serDqs | tristate =>
    exact .inl ⟨_, onLive_live hx _, .withSig s _⟩
  | rdValid | rdAssemble | rdLaneSelect | rdTapBase =>
    exact .inl ⟨_, onLive_live hx _, .withOut s _⟩
  | rdlyRst | rdlyInc | bsRst | bsInc | sel wdata | wrTrack | rdTrack =>
    exact .inl ⟨_, onLive_live hx _, .withPhy hx _ rfl rfl⟩
  | serPipe =>
    refine .inl ⟨_, onLive_live hx _, .trans (.withPhy hx _ ?_ ?_) (.withOut _ _)⟩ <;> rfl
  | desDq | bsAlign =>
    refine .inl ⟨_, onLive_live hx _, .trans (.withPhy hx _ ?_ ?_) (.withSig _ _)⟩ <;> rfl
  | wdlyRst | wdlyInc | wlevelEn wdata =>
    exact runsInFrame_of_ifPresent (onLive_live hx _) (.withPhy hx _ rfl rfl)
  | wlevelStb => exact runsInFrame_of_ifPresent (onLive_live hx _) (.withSig s _)
  | rdWlevelEn =>
    have hread : exec .rdWlevelEn s =
        if x.params.hasWlevel then .next (putBus s (calRead x 7)) else .refused .absentRegister :=
      onLive_live hx _
    cases hw : x.params.hasWlevel with
    | true => exact .inl ⟨putBus s (calRead x 7), hread.trans (if_pos hw), .withOut s _⟩
    | false => exact .inr ⟨hw, _, hread.trans (if_neg (by simp [hw]))⟩

theorem exec_frame {i : Instr} {s t : State} {x : Phy} (hi : ¬ IsConstruct i) (hx : s.block = .live x)
    (h : exec i s = .next t) : TickFrame s t := by
  rcases exec_runsInFrame hi hx with ⟨u, hu, hframe⟩ | ⟨-, r, hr⟩
  · cases hu.symm.trans h
    exact hframe
  · cases hr.symm.trans h

theorem runOps_frame {ops : List Instr} (hops : ∀ op ∈ ops, ¬ IsConstruct op) {s t : State} {x : Phy}
    (hx : s.block = .live x) (h : runOps ops s = .next t) : TickFrame s t := by
  induction ops generalizing s x with
  | nil => cases h; exact .refl _
  | cons op rest ih =>
    obtain ⟨hop, hrest⟩ := List.forall_mem_cons.mp hops
    obtain ⟨u, hu, hr⟩ := runOps_cons_inv h
    have hframe := exec_frame hop hx hu
    obtain ⟨y, hy, -⟩ := hframe.constants x hx
    exact hframe.trans (ih hrest hy hr)

/-- A sequence of operations that the variant has runs to its end. -/
theorem runOps_completes {ops : List Instr} {s : State} {x : Phy} (hx : s.block = .live x)
    (hops : ∀ op ∈ ops, ¬ IsConstruct op ∧ op.wellFormed (variantOf x.params) = true) :
    Completes (runOps ops s) := by
  induction ops generalizing s x with
  | nil => exact ⟨s, rfl⟩
  | cons op rest ih =>
    obtain ⟨⟨hop, hwf⟩, hrest⟩ := List.forall_mem_cons.mp hops
    rcases exec_runsInFrame hop hx with ⟨t, ht, hframe⟩ | ⟨hnot, -⟩
    · obtain ⟨y, hy, hyp, -⟩ := hframe.constants x hx
      rw [runOps_cons_next ht]
      exact ih hy (by rwa [hyp])
    · simp [hwf] at hnot

theorem runOps_append_inv {first rest : List Instr} {s u : State}
    (h : runOps (first ++ rest) s = .next u) :
    ∃ t, runOps first s = .next t ∧ runOps rest t = .next u := by
  induction first generalizing s with
  | nil => exact ⟨s, rfl, h⟩
  | cons op ops ih =>
    obtain ⟨v, hv, hr⟩ := runOps_cons_inv h
    obtain ⟨t, ht, hu⟩ := ih hr
    exact ⟨t, by rw [runOps_cons_next hv, ht], hu⟩

theorem decodeTick_not_isConstruct {x : Phy} {i : TickInput} {ops : List Instr}
    (h : decodeTick x i = .ok ops) : ∀ op ∈ ops, ¬ IsConstruct op := by
  obtain ⟨bus, cal, hcal, hbus, rfl⟩ := decodeTick_ok h
  exact not_isConstruct_of_schedule (flowNeutral_of_busOps hbus) (flowNeutral_of_decodeCtl hcal)

/-- A completed tick stays within the frame, and the tick index advances. -/
theorem runTick_frame {s u : State} {i : TickInput} (h : runTick s i = .next u) :
    ∃ t, TickFrame (beginTick s i) t ∧ u = t.withTick (s.tick + 1) := by
  obtain ⟨x, ops, t, hx, hops, hrun, rfl⟩ := runTick_next h
  have hframe := runOps_frame (s := beginTick s i) (decodeTick_not_isConstruct hops) hx hrun
  exact ⟨t, hframe, congrArg (fun n => t.withTick (n + 1)) hframe.tick⟩

theorem runTick_script {s u : State} {i : TickInput} (h : runTick s i = .next u) :
    u.script = s.script := by
  obtain ⟨t, hframe, rfl⟩ := runTick_frame h
  exact hframe.script

theorem runTick_constants {s u : State} {x : Phy} {i : TickInput} (hx : s.block = .live x)
    (h : runTick s i = .next u) :
    ∃ y, u.block = .live y ∧ y.params = x.params ∧ y.settings = x.settings ∧ u.builds = s.builds := by
  obtain ⟨t, hframe, rfl⟩ := runTick_frame h
  obtain ⟨y, hy, hp, hs⟩ := hframe.constants x hx
  exact ⟨y, hy, hp, hs, hframe.builds⟩

/-! Runs over given inputs -/

theorem core_run_succ_inv {M : Host.Core} {k : Nat} {s u : M.State} (h : M.run (k + 1) s = .next u) :
    ∃ t, M.step s = .next t ∧ M.run k t = .next u := by
  unfold Host.Core.run at h
  split at h
  · exact ⟨_, ‹_›, h⟩
  · cases h
  · cases h

theorem run_succ_inv {k : Nat} {s u : State} (h : Host.Core.run Sys2Proof.core (k + 1) s = .next u) :
    ∃ t : State, step s = .next t ∧ Host.Core.run Sys2Proof.core k t = .next u :=
  core_run_succ_inv h

theorem withTicks_eq_self {s : State} {inputs : List TickInput} (h : s.script = inputs.map .tick) :
    withTicks s inputs = s := by
  unfold withTicks
  rw [← h]
  rfl

/-- The first tick of a run, and the run over the inputs that are left. -/
theorem afterTicks_cons_inv {s u : State} {i : TickInput} {rest : List TickInput} {k : Nat}
    (h : afterTicks s (i :: rest) (k + 1) = .next u) :
    ∃ t, runTick (withTicks s rest) i = .next t ∧ afterTicks t rest k = .next u := by
  obtain ⟨t, ht, hrun⟩ := run_succ_inv h
  have htick : runTick (withTicks s rest) i = .next t :=
    (step_tick (s := withTicks s (i :: rest)) rfl).symm.trans ht
  refine ⟨t, htick, ?_⟩
  unfold afterTicks
  rwa [withTicks_eq_self (runTick_script htick)]

/-- Settles O50, by induction on the number of ticks: each one stays within the frame. -/
theorem ticksKeepTheConstants : Obligations.TicksKeepTheConstants := by
  intro s x inputs k t hx hk h
  induction k generalizing s x inputs with
  | zero =>
    cases h
    exact ⟨x, hx, rfl, rfl, rfl⟩
  | succ k ih =>
    cases inputs with
    | nil => simp at hk
    | cons i rest =>
      obtain ⟨u, hu, hrest⟩ := afterTicks_cons_inv h
      obtain ⟨y, hy, hyp, hys, hyb⟩ := runTick_constants (s := withTicks s rest) hx hu
      obtain ⟨z, hz, hzp, hzs, hzb⟩ := ih u y rest hy (Nat.le_of_succ_le_succ hk) hrest
      exact ⟨z, hz, hzp.trans hyp, hzs.trans hys, hzb.trans hyb⟩

end Sys2Proof.Machine
end

/-! ## Bus reads (20_memory.md R61, R63) -/

section
namespace Sys2Proof.Machine

/-! Accepted and refused words -/

theorem decodeCtl_of_not_refused {v : Variant} {w : Bits} (h : ctlRefusal v w = none) :
    decodeCtl v w = .ok (orCalNop (ctlOps v w)) := by
  simp [decodeCtl, h]

/-- R77(a), R77(b): an accepted control word has no bit of an operation that the variant lacks. -/
theorem present_of_not_refused {v : Variant} {w : Bits} (h : ctlRefusal v w = none) :
    (bitAt w 4 = true ∨ bitAt w 5 = true → v.hasOdelay = true) ∧
      (bitAt w 6 = true ∨ bitAt w 7 = true ∨ bitAt w 8 = true → v.hasWlevel = true) := by
  unfold ctlRefusal at h
  split_ifs at h with hodelay hwlevel
  simp only [not_and', Bool.not_eq_false] at hodelay hwlevel
  exact ⟨hodelay, hwlevel⟩

theorem ctlOps_wellFormed {v : Variant} {w : Bits} (h : ctlRefusal v w = none) :
    ∀ op ∈ orCalNop (ctlOps v w), op.wellFormed v = true := by
  obtain ⟨hodelay, hwlevel⟩ := present_of_not_refused h
  have hops : ∀ op ∈ ctlOps v w, op.wellFormed v = true := by
    intro op hop
    simp only [ctlOps, List.mem_append, List.mem_ite_nil_right, List.mem_singleton] at hop
    rcases hop with (((((((⟨-, rfl⟩ | ⟨-, rfl⟩) | ⟨-, rfl⟩) | ⟨-, rfl⟩) | ⟨hbit, rfl⟩) |
      ⟨hbit, rfl⟩) | ⟨hbit, rfl⟩) | ⟨hbit, rfl⟩) | ⟨-, rfl⟩
    · rfl
    · rfl
    · rfl
    · rfl
    · exact hodelay (.inl hbit)
    · exact hodelay (.inr hbit)
    · exact hwlevel (.inl hbit)
    · exact hwlevel (.inr (.inl hbit))
    · simp [Instr.wellFormed, selWdata]
  cases hlist : ctlOps v w with
  | nil => simp [orCalNop, Instr.wellFormed]
  | cons op rest => rwa [orCalNop, ← hlist]

/-- What a read of a present register selects: one of the three reads, which the variant then has, or, for a
pulse register, nothing. -/
theorem decodeReg_of_present {v : Variant} {r : BitVec 4} (h : registerPresent v r.toNat = true) :
    ∃ bus, decodeReg v r = .ok bus ∧ (∀ op ∈ bus, op.wellFormed v = true) ∧
      (r ≠ 0#4 → r ≠ 7#4 → r ≠ 9#4 → bus = []) := by
  unfold decodeReg
  rw [if_neg (by simp [h])]
  split_ifs with hsel hlevel htap
  · exact ⟨_, rfl, by simp [Instr.wellFormed], fun h0 => absurd hsel h0⟩
  · subst hlevel
    exact ⟨_, rfl, by simpa [Instr.wellFormed, registerPresent] using h, fun _ h7 => absurd rfl h7⟩
  · exact ⟨_, rfl, by simp [Instr.wellFormed], fun _ _ h9 => absurd htap h9⟩
  · exact ⟨[], rfl, by simp, fun _ _ _ => rfl⟩

theorem registerPresent_eq_false {v : Variant} {n : Nat}
    (h : 9 < n ∨ (v.hasOdelay = false ∧ (n = 5 ∨ n = 6)) ∨ (v.hasWlevel = false ∧ (n = 7 ∨ n = 8))) :
    registerPresent v n = false := by
  unfold registerPresent
  rcases h with hn | ⟨hv, hn⟩ | ⟨hv, hn⟩
  · rw [if_neg (by omega), if_neg (by omega), decide_eq_false (by omega)]
  · rw [if_pos hn, hv]
  · rw [if_neg (by omega), if_pos hn, hv]

theorem decodeTick_of_bus_refused {x : Phy} {i : TickInput} {e : DecodeError}
    (hctl : ctlRefusal (variantOf x.params) i.ctl = none)
    (hbus : busOps (variantOf x.params) i.busRead = .error e) : decodeTick x i = .error e := by
  simp [decodeTick, decode, decodeCtl_of_not_refused hctl, hbus]

theorem decodeTick_of_accepted {x : Phy} {i : TickInput} {bus : List Instr}
    (hctl : ctlRefusal (variantOf x.params) i.ctl = none)
    (hbus : busOps (variantOf x.params) i.busRead = .ok bus) :
    decodeTick x i =
      .ok (schedule bus (decodeFlow (flowWord x i)) (orCalNop (ctlOps (variantOf x.params) i.ctl))) := by
  simp [decodeTick, decode, decodeCtl_of_not_refused hctl, hbus]

theorem runTick_of_decode_error {s : State} {x : Phy} {i : TickInput} {e : DecodeError}
    (hx : s.block = .live x) (h : decodeTick x i = .error e) : runTick s i = .refused (refusalOf e) := by
  simp [runTick, onLive_live hx, h]

theorem runTick_of_runOps {s t : State} {x : Phy} {i : TickInput} {ops : List Instr}
    (hx : s.block = .live x) (hops : decodeTick x i = .ok ops)
    (h : runOps ops (beginTick s i) = .next t) : runTick s i = .next (t.withTick (t.tick + 1)) := by
  simp [runTick, onLive_live hx, hops, h, endTick]

/-- Settles O44: the decoder refuses the register number before any operation of the tick runs. -/
theorem absentRegisterReadIsRefused : Obligations.AbsentRegisterReadIsRefused := by
  intro s x i rest r hx hscript hctl hread habsent
  have hbus : busOps (variantOf x.params) i.busRead = .error .absentRegister := by
    simp [hread, busOps, decode, decodeReg,
      registerPresent_eq_false (v := variantOf x.params) habsent]
  rw [step_tick hscript]
  exact runTick_of_decode_error (s := s.withScript rest) hx (decodeTick_of_bus_refused hctl hbus)

/-! The operations of a tick do not see the bus -/

/-- One of the three operations of a bus read (44_delay_cal.md R182). -/
def IsBusRead (i : Instr) : Prop := i = .rdLaneSelect ∨ i = .rdWlevelEn ∨ i = .rdTapBase

/-- `s` with another bus read among its inputs and another value on the bus. -/
def State.withBus (s : State) (r : Option (BitVec 4)) (value : Option Nat) : State :=
  (s.withInput { s.inp with busRead := r }).withOut { s.out with busValue := value }

/-- `g` on the next state, if there is one. -/
def mapNext (g : State → State) : Result → Result
  | .next t => .next (g t)
  | .fault f => .fault f
  | .refused f => .refused f

theorem ifPresent_eq_mapNext {g : State → State} {a b : Result} (h : a = mapNext g b) (present : Bool) :
    ifPresent present a = mapNext g (ifPresent present b) := by
  cases present with
  | true => exact h
  | false => rfl

theorem onLive_withBus {s : State} {r : Option (BitVec 4)} {value : Option Nat} {f g : Phy → Result}
    (h : ∀ x, g x = mapNext (State.withBus · r value) (f x)) :
    onLive (s.withBus r value) g = mapNext (State.withBus · r value) (onLive s f) := by
  cases hb : s.block with
  | live x => rw [onLive_live hb, onLive_live (s := s.withBus r value) hb, h]
  | failed e => rw [onLive_failed hb, onLive_failed (s := s.withBus r value) hb]; rfl

/-- Any other operation of a tick neither reads nor drives the bus. -/
theorem exec_withBus {i : Instr} (hi : ¬ IsConstruct i) (hread : ¬ IsBusRead i) (s : State)
    (r : Option (BitVec 4)) (value : Option Nat) :
    exec i (s.withBus r value) = mapNext (State.withBus · r value) (exec i s) := by
  cases i with
  | resolve | sysLatency | phaseAssign | buildSettings => exact absurd (by simp [IsConstruct]) hi
  | rdLaneSelect | rdWlevelEn | rdTapBase => exact absurd (by simp [IsBusRead]) hread
  | rdlyRst | rdlyInc | bsRst | bsInc | sel wdata | calNop | wren | rden | serCmd | serDq | serDm | serDqs
  | tristate | serPipe | desDq | rdAssemble | wrTrack | oe | oeDqs | dqsPre | dqsPost | rdTrack | rdValid
  | bsAlign => exact onLive_withBus fun _ => rfl
  | wdlyRst | wdlyInc | wlevelStb | wlevelEn wdata =>
    exact onLive_withBus fun _ => by apply ifPresent_eq_mapNext; rfl

theorem runOps_withBus {ops : List Instr} (hops : ∀ op ∈ ops, ¬ IsConstruct op ∧ ¬ IsBusRead op)
    (s : State) (r : Option (BitVec 4)) (value : Option Nat) :
    runOps ops (s.withBus r value) = mapNext (State.withBus · r value) (runOps ops s) := by
  induction ops generalizing s with
  | nil => rfl
  | cons op rest ih =>
    obtain ⟨⟨hop, hread⟩, hrest⟩ := List.forall_mem_cons.mp hops
    rw [runOps, runOps, exec_withBus hop hread]
    cases exec op s with
    | next t => exact ih hrest t
    | fault f => rfl
    | refused f => rfl

/-- A read operation changes the value on the bus only. -/
theorem exec_busRead_withBus {i : Instr} {s t : State} (hi : IsBusRead i) (h : exec i s = .next t)
    (r : Option (BitVec 4)) (value : Option Nat) : t.withBus r value = s.withBus r value := by
  rcases hi with rfl | rfl | rfl
  · obtain ⟨x, -, hput⟩ := onLive_next h
    cases hput
    rfl
  · obtain ⟨x, -, hput⟩ := onLive_next h
    split at hput
    · cases hput
      rfl
    · cases hput
  · obtain ⟨x, -, hput⟩ := onLive_next h
    cases hput
    rfl

theorem runOps_busReads_withBus {bus : List Instr} (hbus : ∀ op ∈ bus, IsBusRead op) {s t : State}
    (h : runOps bus s = .next t) (r : Option (BitVec 4)) (value : Option Nat) :
    t.withBus r value = s.withBus r value := by
  induction bus generalizing s with
  | nil => cases h; rfl
  | cons op rest ih =>
    obtain ⟨hop, hrest⟩ := List.forall_mem_cons.mp hbus
    obtain ⟨u, hu, hr⟩ := runOps_cons_inv h
    rw [ih hrest hr, exec_busRead_withBus hop hu]

/-! A tick with and without its bus read -/

theorem schedule_eq_append (bus flow cal : List Instr) :
    schedule bus flow cal = bus ++ schedule [] flow cal := by
  simp [schedule]

theorem mem_schedule {bus flow cal : List Instr} {op : Instr} (h : op ∈ schedule bus flow cal) :
    op ∈ bus ∨ op ∈ flow ∨ op ∈ cal ∨ op ∈ tickOrder := by
  simp only [schedule, List.mem_append, List.mem_filter] at h
  tauto

theorem mem_decodeFlow {w : BitVec 2} {op : Instr} (h : op ∈ decodeFlow w) : op = .wren ∨ op = .rden := by
  simp only [decodeFlow, List.mem_append, List.mem_ite_nil_right, List.mem_singleton] at h
  tauto

theorem tickOrder_wellFormed (v : Variant) : ∀ op ∈ tickOrder, op.wellFormed v = true := by
  simp [tickOrder, Instr.wellFormed]

theorem schedule_wellFormed {v : Variant} {bus cal : List Instr} {w : BitVec 2}
    (hbus : ∀ op ∈ bus, op.wellFormed v = true) (hcal : ∀ op ∈ cal, op.wellFormed v = true) :
    ∀ op ∈ schedule bus (decodeFlow w) cal, op.wellFormed v = true := by
  intro op hop
  rcases mem_schedule hop with h | h | h | h
  · exact hbus op h
  · rcases mem_decodeFlow h with rfl | rfl <;> rfl
  · exact hcal op h
  · exact tickOrder_wellFormed v op h

theorem isBusRead_of_busOps {v : Variant} {r : Option (BitVec 4)} {bus : List Instr}
    (h : busOps v r = .ok bus) : ∀ op ∈ bus, IsBusRead op := by
  intro op hop
  simpa [IsBusRead] using busOps_subset h hop

theorem not_isBusRead_of_decodeCtl {v : Variant} {w : Bits} {cal : List Instr}
    (h : decodeCtl v w = .ok cal) : ∀ op ∈ cal, ¬ IsBusRead op := by
  rintro op hop (rfl | rfl | rfl) <;> simpa [ctlCanon] using decodeCtl_subset h hop

/-- Outside the bus read itself a tick has no read operation. -/
theorem not_isBusRead_of_schedule {cal : List Instr} {w : BitVec 2} (hcal : ∀ op ∈ cal, ¬ IsBusRead op) :
    ∀ op ∈ schedule [] (decodeFlow w) cal, ¬ IsBusRead op := by
  intro op hop
  rcases mem_schedule hop with h | h | h | h
  · cases h
  · rcases mem_decodeFlow h with rfl | rfl <;> simp [IsBusRead]
  · exact hcal op h
  · rintro (rfl | rfl | rfl) <;> revert h <;> decide

/-- The tick without its bus read, and under any other value on the bus, ends as the tick does: the read comes
first and changes the bus value only, and no later operation sees the bus. -/
theorem runOps_schedule_withBus {x : Phy} {i : TickInput} {bus cal : List Instr} {s t : State}
    (hbus : ∀ op ∈ bus, IsBusRead op) (hcal : decodeCtl (variantOf x.params) i.ctl = .ok cal)
    (h : runOps (schedule bus (decodeFlow (flowWord x i)) cal) s = .next t)
    (r : Option (BitVec 4)) (value : Option Nat) :
    runOps (schedule [] (decodeFlow (flowWord x i)) cal) (s.withBus r value) =
      .next (t.withBus r value) := by
  rw [schedule_eq_append] at h
  obtain ⟨m, hm, hrest⟩ := runOps_append_inv h
  have hconstruct := not_isConstruct_of_schedule (x := x) (i := i) (bus := []) (by simp)
    (flowNeutral_of_decodeCtl hcal)
  have hread := not_isBusRead_of_schedule (w := flowWord x i) (not_isBusRead_of_decodeCtl hcal)
  rw [← runOps_busReads_withBus hbus hm,
    runOps_withBus fun op hop => ⟨hconstruct op hop, hread op hop⟩, hrest, mapNext]

/-- Settles O45: an accepted tick completes (`runOps_completes`), and without the read it ends in the same state
with no value on the bus (`runOps_schedule_withBus`); the 0 put there for a pulse register stays. -/
theorem busReadHasNoSideEffect : Obligations.BusReadHasNoSideEffect := by
  intro s x i r hx _ haccepted hread
  obtain ⟨hctl, hregister⟩ := haccepted
  obtain ⟨bus, hdecode, hbuswf, hpulse⟩ := decodeReg_of_present (hregister r hread)
  have hbus : busOps (variantOf x.params) i.busRead = .ok bus := by rw [hread]; exact hdecode
  have hops := decodeTick_of_accepted hctl hbus
  have hquiet := decodeTick_of_accepted (i := { i with busRead := none }) hctl rfl
  obtain ⟨t, ht⟩ := runOps_completes (s := beginTick s i) hx fun op hop =>
    ⟨decodeTick_not_isConstruct hops op hop,
      schedule_wellFormed hbuswf (ctlOps_wellFormed hctl) op hop⟩
  have hbusless := runOps_schedule_withBus (isBusRead_of_busOps hbus) (decodeCtl_of_not_refused hctl) ht
  refine ⟨_, _, runTick_of_runOps hx hops ht, runTick_of_runOps hx hquiet (hbusless none none),
    rfl, rfl, rfl, fun h0 h7 h9 => ?_⟩
  obtain rfl := hpulse h0 h7 h9
  have hbegin : (beginTick s i).withBus (some r) (some 0) = beginTick s i := by
    cases i
    cases hread
    rfl
  have hsame := (hbusless (some r) (some 0)).symm.trans (hbegin ▸ ht)
  exact congrArg (fun u => u.out.busValue) (Host.Outcome.next.inj hsame).symm

end Sys2Proof.Machine
end

/-! ## Control words: the word of several operations and the operations of a word (30_encoding.md R70, R71) -/

section
namespace Sys2Proof.Machine

/-- Which control words are accepted (30_encoding.md R77(a) to (c)). -/
theorem ctlRefusal_eq_none_iff {v : Variant} {w : Bits} : ctlRefusal v w = none ↔
    ¬ (v.hasOdelay = false ∧ (bitAt w 4 = true ∨ bitAt w 5 = true)) ∧
    ¬ (v.hasWlevel = false ∧ (bitAt w 6 = true ∨ bitAt w 7 = true ∨ bitAt w 8 = true)) ∧
    ¬ ((bitAt w 0 = true ∧ bitAt w 1 = true) ∨ (bitAt w 2 = true ∧ bitAt w 3 = true) ∨
      (bitAt w 4 = true ∧ bitAt w 5 = true)) := by
  unfold ctlRefusal
  split_ifs with hodelay hwlevel hconflict
  · exact ⟨nofun, fun h => absurd hodelay h.1⟩
  · exact ⟨nofun, fun h => absurd hwlevel h.2.1⟩
  · exact ⟨nofun, fun h => absurd hconflict h.2.2⟩
  · exact ⟨fun _ => ⟨hodelay, hwlevel, hconflict⟩, fun _ => rfl⟩

theorem nodup_ctlCanon (enable : Bool) (mask : Bits) : (ctlCanon enable mask).Nodup := by
  simp [ctlCanon]

/-- A sublist of a list without duplicates is the part of it that has its members. -/
theorem filter_mem_eq_of_sublist {α : Type} [DecidableEq α] {l ops : List α} (hl : l.Nodup)
    (h : ops.Sublist l) : l.filter (fun i => decide (i ∈ ops)) = ops := by
  have hsub : ops.Sublist (l.filter fun i => decide (i ∈ ops)) := by
    have hself : ops.filter (fun i => decide (i ∈ ops)) = ops := by simp
    simpa only [hself] using h.filter fun i => decide (i ∈ ops)
  refine (hsub.eq_of_length_le ?_).symm
  exact ((hl.filter _).subperm fun i hi => by simpa using (List.mem_filter.mp hi).2).length_le

theorem filter_cons_eq_append {α : Type} (p : α → Bool) (i : α) (l : List α) :
    (i :: l).filter p = (if p i then [i] else []) ++ l.filter p := by
  cases h : p i <;> simp [h]

/-- The number of the operation bit of a calibration operation (30_encoding.md R71); 10 stands for none. -/
def ctlIndex : Instr → Nat
  | .rdlyRst => 0
  | .rdlyInc => 1
  | .bsRst => 2
  | .bsInc => 3
  | .wdlyRst => 4
  | .wdlyInc => 5
  | .wlevelStb => 6
  | .wlevelEn _ => 7
  | .sel _ => 9
  | _ => 10

/-- Among the operation bits an operation of a control word sets its own only. -/
theorem ctlBit_iff {enable : Bool} {mask : Bits} {i : Instr} (hi : i ∈ ctlCanon enable mask)
    {j : Nat} (hj : j < 8 ∨ j = 9) : ctlBit i j = true ↔ j = ctlIndex i := by
  simp only [ctlCanon, List.mem_cons, List.not_mem_nil, or_false] at hi
  rcases hi with rfl | rfl | rfl | rfl | rfl | rfl | rfl | rfl | rfl <;> simp [ctlBit, ctlIndex] <;> omega

/-- Bit 8 is the operand of `WLEVEL_EN`. -/
theorem ctlBit_enable_iff {enable : Bool} {mask : Bits} {i : Instr} (hi : i ∈ ctlCanon enable mask) :
    ctlBit i 8 = true ↔ i = .wlevelEn enable ∧ enable = true := by
  simp only [ctlCanon, List.mem_cons, List.not_mem_nil, or_false] at hi
  rcases hi with rfl | rfl | rfl | rfl | rfl | rfl | rfl | rfl | rfl <;> simp [ctlBit]

/-- The bits from 10 on are the operand of `SEL`. -/
theorem ctlBit_mask_iff {enable : Bool} {mask : Bits} {i : Instr} (hi : i ∈ ctlCanon enable mask) (l : Nat) :
    ctlBit i (10 + l) = true ↔ i = .sel mask ∧ bitAt mask l = true := by
  simp only [ctlCanon, List.mem_cons, List.not_mem_nil, or_false] at hi
  rcases hi with rfl | rfl | rfl | rfl | rfl | rfl | rfl | rfl | rfl <;> simp [ctlBit] <;> omega

/-- A bit that one operation alone can set is in the union of the bits when that operation is among them. -/
theorem any_eq_of_unique {α : Type} [DecidableEq α] {ops : List α} {p : α → Bool} {k : α} {b : Bool}
    (h : ∀ i ∈ ops, (p i = true ↔ i = k ∧ b = true)) : ops.any p = (decide (k ∈ ops) && b) := by
  rw [Bool.eq_iff_iff, List.any_eq_true, Bool.and_eq_true, decide_eq_true_iff]
  constructor
  · rintro ⟨i, hi, hp⟩
    obtain ⟨rfl, hb⟩ := (h i hi).mp hp
    exact ⟨hi, hb⟩
  · exact fun ⟨hk, hb⟩ => ⟨k, hk, (h k hk).mpr ⟨rfl, hb⟩⟩

theorem ctlIndex_lt {enable : Bool} {mask : Bits} {i : Instr} (hi : i ∈ ctlCanon enable mask) :
    ctlIndex i < 8 ∨ ctlIndex i = 9 := by
  simp only [ctlCanon, List.mem_cons, List.not_mem_nil, or_false] at hi
  rcases hi with rfl | rfl | rfl | rfl | rfl | rfl | rfl | rfl | rfl <;> simp [ctlIndex]

theorem ctlIndex_injOn {enable : Bool} {mask : Bits} {i k : Instr} (hi : i ∈ ctlCanon enable mask)
    (hk : k ∈ ctlCanon enable mask) (h : ctlIndex i = ctlIndex k) : i = k := by
  have hmap : ((ctlCanon enable mask).map ctlIndex).Nodup := by simp [ctlCanon, ctlIndex]
  exact List.inj_on_of_nodup_map hmap hi hk h

/-- A control word selects the operations of the canonical list whose operation bit is set; an operand counts
under its write-enable only (30_encoding.md R77(d)). -/
theorem ctlOps_eq_filter {v : Variant} {w : Bits} {enable : Bool} {mask : Bits}
    (henable : bitAt w 7 = true → bitAt w 8 = enable) (hmask : bitAt w 9 = true → selWdata v w = mask) :
    ctlOps v w = (ctlCanon enable mask).filter fun i => bitAt w (ctlIndex i) := by
  have hlevel : (if bitAt w 7 then [Instr.wlevelEn (bitAt w 8)] else []) =
      if bitAt w 7 then [Instr.wlevelEn enable] else [] := by
    split
    · rw [henable ‹_›]
    · rfl
  have hsel : (if bitAt w 9 then [Instr.sel (selWdata v w)] else []) =
      if bitAt w 9 then [Instr.sel mask] else [] := by
    split
    · rw [hmask ‹_›]
    · rfl
  simp only [ctlOps, ctlCanon, hlevel, hsel, filter_cons_eq_append, ctlIndex, List.filter_nil,
    List.append_nil, List.append_assoc]

section
variable {v : Variant} {enable : Bool} {mask : Bits} {ops : List Instr}

/-- The operation bits of the word of several operations say which operations these are. -/
theorem bitAt_encodeCtl_ctlIndex (hsub : ops ⊆ ctlCanon enable mask) {k : Instr}
    (hk : k ∈ ctlCanon enable mask) : bitAt (encodeCtl v ops) (ctlIndex k) = decide (k ∈ ops) := by
  have hindex := ctlIndex_lt hk
  have hbit : ∀ i ∈ ops, (ctlBit i (ctlIndex k) = true ↔ i = k ∧ true = true) := fun i hi => by
    rw [ctlBit_iff (hsub hi) hindex, and_iff_left rfl]
    exact ⟨fun h => (ctlIndex_injOn hk (hsub hi) h).symm, fun h => h ▸ rfl⟩
  rw [bitAt_encodeCtl_low v ops (by omega), any_eq_of_unique hbit, Bool.and_true]

/-- `WLEVEL_EN_WDATA` of the word of several operations. -/
theorem bitAt_encodeCtl_enable (hsub : ops ⊆ ctlCanon enable mask) :
    bitAt (encodeCtl v ops) 8 = (decide (.wlevelEn enable ∈ ops) && enable) := by
  rw [bitAt_encodeCtl_low v ops (by omega)]
  exact any_eq_of_unique fun i hi => ctlBit_enable_iff (hsub hi)

/-- `SEL_WDATA` of the word of several operations. -/
theorem bitAt_encodeCtl_mask (hsub : ops ⊆ ctlCanon enable mask) {l : Nat} (hl : l < v.lanes) :
    bitAt (encodeCtl v ops) (10 + l) = (decide (.sel mask ∈ ops) && bitAt mask l) := by
  rw [bitAt_encodeCtl, if_pos (by omega)]
  exact any_eq_of_unique fun i hi => ctlBit_mask_iff (hsub hi) l

theorem selWdata_encodeCtl (hlen : mask.length = v.lanes) (hsub : ops ⊆ ctlCanon enable mask)
    (hsel : .sel mask ∈ ops) : selWdata v (encodeCtl v ops) = mask := by
  refine bits_ext (by simp [selWdata, hlen]) fun l hl => ?_
  have hl' : l < v.lanes := by simpa [selWdata] using hl
  rw [selWdata, bitAt_wordOf_of_lt _ hl', bitAt_encodeCtl_mask hsub hl']
  simp [hsel]

/-- The word of several operations selects exactly these. -/
theorem ctlOps_encodeCtl (hlen : mask.length = v.lanes) (h : ops.Sublist (ctlCanon enable mask)) :
    ctlOps v (encodeCtl v ops) = ops := by
  have hbit {k : Instr} (hk : k ∈ ctlCanon enable mask) :
      bitAt (encodeCtl v ops) (ctlIndex k) = decide (k ∈ ops) := bitAt_encodeCtl_ctlIndex h.subset hk
  have henable (h7 : bitAt (encodeCtl v ops) 7 = true) : bitAt (encodeCtl v ops) 8 = enable := by
    have hmem := (hbit (k := .wlevelEn enable) (by simp [ctlCanon])).symm.trans h7
    rw [bitAt_encodeCtl_enable h.subset, hmem, Bool.true_and]
  have hmask (h9 : bitAt (encodeCtl v ops) 9 = true) : selWdata v (encodeCtl v ops) = mask :=
    selWdata_encodeCtl hlen h.subset
      (of_decide_eq_true ((hbit (k := .sel mask) (by simp [ctlCanon])).symm.trans h9))
  rw [ctlOps_eq_filter henable hmask, List.filter_congr fun k hk => hbit hk]
  exact filter_mem_eq_of_sublist (nodup_ctlCanon enable mask) h

/-- R77(a) to (c): operations that the variant has, without a conflict, have an accepted word. -/
theorem ctlRefusal_encodeCtl (hsub : ops ⊆ ctlCanon enable mask) (hwf : ∀ i ∈ ops, i.wellFormed v = true)
    (hconflict : NoConflict ops) : ctlRefusal v (encodeCtl v ops) = none := by
  have hbit (k : Instr) (hk : k ∈ ctlCanon enable mask) :
      bitAt (encodeCtl v ops) (ctlIndex k) = true ↔ k ∈ ops := by
    rw [bitAt_encodeCtl_ctlIndex hsub hk, decide_eq_true_iff]
  have h0 : bitAt (encodeCtl v ops) 0 = true ↔ _ := hbit .rdlyRst (by simp [ctlCanon])
  have h1 : bitAt (encodeCtl v ops) 1 = true ↔ _ := hbit .rdlyInc (by simp [ctlCanon])
  have h2 : bitAt (encodeCtl v ops) 2 = true ↔ _ := hbit .bsRst (by simp [ctlCanon])
  have h3 : bitAt (encodeCtl v ops) 3 = true ↔ _ := hbit .bsInc (by simp [ctlCanon])
  have h4 : bitAt (encodeCtl v ops) 4 = true ↔ _ := hbit .wdlyRst (by simp [ctlCanon])
  have h5 : bitAt (encodeCtl v ops) 5 = true ↔ _ := hbit .wdlyInc (by simp [ctlCanon])
  have h6 : bitAt (encodeCtl v ops) 6 = true ↔ _ := hbit .wlevelStb (by simp [ctlCanon])
  have h7 : bitAt (encodeCtl v ops) 7 = true ↔ _ := hbit (.wlevelEn enable) (by simp [ctlCanon])
  have h8 : bitAt (encodeCtl v ops) 8 = true → .wlevelEn enable ∈ ops := by
    rw [bitAt_encodeCtl_enable hsub, Bool.and_eq_true, decide_eq_true_iff]
    exact And.left
  rw [ctlRefusal_eq_none_iff, h0, h1, h2, h3, h4, h5, h6, h7]
  refine ⟨?_, ?_, ?_⟩
  · rintro ⟨hv, hmem | hmem⟩ <;> simpa [Instr.wellFormed, hv] using hwf _ hmem
  · rintro ⟨hv, hmem | hmem | hbit8⟩
    · simpa [Instr.wellFormed, hv] using hwf _ hmem
    · simpa [Instr.wellFormed, hv] using hwf _ hmem
    · simpa [Instr.wellFormed, hv] using hwf _ (h8 hbit8)
  · obtain ⟨hrdly, hbs, hwdly⟩ := hconflict
    rintro (hmem | hmem | hmem)
    · exact hrdly hmem
    · exact hbs hmem
    · exact hwdly hmem

end

/-- `CAL_NOP` stands for no operation (30_encoding.md R79). -/
theorem orCalNop_eq_ite (ops : List Instr) : orCalNop ops = if ops = [] then [.calNop] else ops := by
  cases ops <;> rfl

/-- Settles O18: the operation bits of the word say which operations it carries (`ctlOps_encodeCtl`), and it is
accepted (`ctlRefusal_encodeCtl`). -/
theorem controlWordCarriesEveryAllowedCombination :
    Obligations.ControlWordCarriesEveryAllowedCombination := by
  intro v enable mask ops hlen hsub hwf hconflict
  rw [decode, decodeCtl_of_not_refused (ctlRefusal_encodeCtl hsub.subset hwf hconflict),
    ctlOps_encodeCtl hlen hsub, orCalNop_eq_ite]

end Sys2Proof.Machine
end

/-! ## Encode, decode and bus writes (30_encoding.md R71, R72, R77, R78, R83) -/

section
namespace Sys2Proof.Machine

theorem mem_selectedWith (i : Instr) : i ∈ selectedWith i := by
  unfold selectedWith
  split
  · assumption
  · exact List.mem_singleton_self i

/-- Settles O17, by cases on the operation: each has its own round trip. -/
theorem decodeOfEncodeSelectsTheOperation : Obligations.DecodeOfEncodeSelectsTheOperation := by
  intro v i hwf
  refine ⟨mem_selectedWith i, ?_⟩
  cases i with
  | resolve => exact Laws.RoundTrip.resolve v hwf
  | sysLatency => exact Laws.RoundTrip.sysLatency v hwf
  | phaseAssign => exact Laws.RoundTrip.phaseAssign v hwf
  | buildSettings => exact Laws.RoundTrip.buildSettings v hwf
  | rdlyRst => exact Laws.RoundTrip.rdlyRst v hwf
  | rdlyInc => exact Laws.RoundTrip.rdlyInc v hwf
  | bsRst => exact Laws.RoundTrip.bsRst v hwf
  | bsInc => exact Laws.RoundTrip.bsInc v hwf
  | wdlyRst => exact Laws.RoundTrip.wdlyRst v hwf
  | wdlyInc => exact Laws.RoundTrip.wdlyInc v hwf
  | wlevelStb => exact Laws.RoundTrip.wlevelStb v hwf
  | wlevelEn enable => exact Laws.RoundTrip.wlevelEn enable v hwf
  | sel mask => exact Laws.RoundTrip.sel mask v hwf
  | calNop => exact Laws.RoundTrip.calNop v hwf
  | wren => exact Laws.RoundTrip.wren v hwf
  | rden => exact Laws.RoundTrip.rden v hwf
  | serCmd => exact Laws.RoundTrip.serCmd v hwf
  | serDq => exact Laws.RoundTrip.serDq v hwf
  | serDm => exact Laws.RoundTrip.serDm v hwf
  | serDqs => exact Laws.RoundTrip.serDqs v hwf
  | tristate => exact Laws.RoundTrip.tristate v hwf
  | serPipe => exact Laws.RoundTrip.serPipe v hwf
  | desDq => exact Laws.RoundTrip.desDq v hwf
  | rdAssemble => exact Laws.RoundTrip.rdAssemble v hwf
  | wrTrack => exact Laws.RoundTrip.wrTrack v hwf
  | oe => exact Laws.RoundTrip.oe v hwf
  | oeDqs => exact Laws.RoundTrip.oeDqs v hwf
  | dqsPre => exact Laws.RoundTrip.dqsPre v hwf
  | dqsPost => exact Laws.RoundTrip.dqsPost v hwf
  | rdTrack => exact Laws.RoundTrip.rdTrack v hwf
  | rdValid => exact Laws.RoundTrip.rdValid v hwf
  | bsAlign => exact Laws.RoundTrip.bsAlign v hwf
  | rdLaneSelect => exact Laws.RoundTrip.rdLaneSelect v hwf
  | rdWlevelEn => exact Laws.RoundTrip.rdWlevelEn v hwf
  | rdTapBase => exact Laws.RoundTrip.rdTapBase v hwf

/-! The word of the operations that a control word selects -/

theorem decodeCtl_ok {v : Variant} {w : Bits} {ops : List Instr} (h : decodeCtl v w = .ok ops) :
    ctlRefusal v w = none ∧ ops = orCalNop (ctlOps v w) := by
  unfold decodeCtl at h
  split at h
  · cases h
  · cases h
    exact ⟨‹_›, rfl⟩

/-- `CAL_NOP` sets no bit (30_encoding.md R79). -/
theorem encodeCtl_orCalNop (v : Variant) (ops : List Instr) :
    encodeCtl v (orCalNop ops) = encodeCtl v ops := by
  cases ops <;> rfl

/-- The operations of a control word are a part of the canonical list for its own operands. -/
theorem ctlOps_eq_filter_self (v : Variant) (w : Bits) :
    ctlOps v w = (ctlCanon (bitAt w 8) (selWdata v w)).filter fun i => bitAt w (ctlIndex i) :=
  ctlOps_eq_filter (fun _ => rfl) (fun _ => rfl)

theorem decide_mem_ctlOps {v : Variant} {w : Bits} {k : Instr}
    (hk : k ∈ ctlCanon (bitAt w 8) (selWdata v w)) : decide (k ∈ ctlOps v w) = bitAt w (ctlIndex k) := by
  rw [Bool.eq_iff_iff, decide_eq_true_iff, ctlOps_eq_filter_self, List.mem_filter]
  exact and_iff_right hk

/-- Each operation bit is that of an operation of the canonical list. -/
theorem exists_mem_ctlCanon (enable : Bool) (mask : Bits) {j : Nat} (hj : j < 8 ∨ j = 9) :
    ∃ k ∈ ctlCanon enable mask, ctlIndex k = j := by
  have hindices : (ctlCanon enable mask).map ctlIndex = [0, 1, 2, 3, 4, 5, 6, 7, 9] := rfl
  have hmem : j ∈ (ctlCanon enable mask).map ctlIndex := by
    rw [hindices]
    simp only [List.mem_cons, List.not_mem_nil, or_false]
    omega
  simpa using hmem

/-- Settles O19: a bit of the word of the selected operations says whether its operation is among them, that
is, whether the word had it. -/
theorem encodeOfDecodeKeepsEveryReadBit : Obligations.EncodeOfDecodeKeepsEveryReadBit := by
  intro v w ops hdecode
  obtain ⟨-, rfl⟩ := decodeCtl_ok hdecode
  rw [encodeCtl_orCalNop]
  refine ⟨fun j hj => ?_, ?_, fun l hl => ?_⟩
  · obtain ⟨k, hk, rfl⟩ := exists_mem_ctlCanon (bitAt w 8) (selWdata v w) hj
    rw [bitAt_encodeCtl_ctlIndex (ctlOps_subset v w) hk, decide_mem_ctlOps hk]
  · rw [bitAt_encodeCtl_enable (ctlOps_subset v w), decide_mem_ctlOps (by simp [ctlCanon])]
    rfl
  · rw [bitAt_encodeCtl_mask (ctlOps_subset v w) hl, decide_mem_ctlOps (by simp [ctlCanon]), selWdata,
      bitAt_wordOf_of_lt _ hl]
    rfl

/-! Bus writes -/

/-- A control word of one operation selects it alone. -/
theorem decodeCtl_encodeCtl_singleton {v : Variant} {i : Instr} (hwf : i.wellFormed v = true)
    (hctl : encode v i = .ctl (encodeCtl v [i])) (htick : i ∉ tickOrder) :
    decode v (.ctl (encodeCtl v [i])) = .ok [i] := by
  have hround := (decodeOfEncodeSelectsTheOperation v i hwf).2
  rwa [hctl, selectedWith, if_neg htick] at hround

/-- The operation that a bus write stands for (30_encoding.md R78), `CAL_NOP` for the read-only register 9. -/
def busWriteOp (v : Variant) (r : BitVec 4) (value : Nat) : Instr :=
  if r = 0#4 then .sel (bitsOfNat v.lanes value)
  else if r = 1#4 then .rdlyRst else if r = 2#4 then .rdlyInc
  else if r = 3#4 then .bsRst else if r = 4#4 then .bsInc
  else if r = 5#4 then .wdlyRst else if r = 6#4 then .wdlyInc
  else if r = 7#4 then .wlevelEn (value.testBit 0) else if r = 8#4 then .wlevelStb
  else .calNop

theorem le_nine_of_registerPresent {v : Variant} {n : Nat} (h : registerPresent v n = true) : n ≤ 9 := by
  by_contra hn
  simp [registerPresent_eq_false (v := v) (.inl (not_le.mp hn))] at h

/-- The register numbers of 30_encoding.md R78. -/
theorem eq_register_of_le_nine : ∀ r : BitVec 4, r.toNat ≤ 9 →
    r = 0#4 ∨ r = 1#4 ∨ r = 2#4 ∨ r = 3#4 ∨ r = 4#4 ∨
      r = 5#4 ∨ r = 6#4 ∨ r = 7#4 ∨ r = 8#4 ∨ r = 9#4 := by
  decide

theorem busWriteCtl_of_present {v : Variant} {r : BitVec 4} (h : registerPresent v r.toNat = true)
    (value : Nat) : busWriteCtl v r value = .ok (encodeCtl v [busWriteOp v r value]) := by
  rw [busWriteCtl, if_neg (by simp [h])]
  rcases eq_register_of_le_nine r (le_nine_of_registerPresent h) with
    rfl | rfl | rfl | rfl | rfl | rfl | rfl | rfl | rfl | rfl <;> rfl

theorem busWriteCtl_of_absent {v : Variant} {r : BitVec 4} (h : registerPresent v r.toNat = false)
    (value : Nat) : busWriteCtl v r value = .error .absentRegister := by
  simp [busWriteCtl, h]

/-- The word of a bus write selects its operation alone; a present register has its operation in the variant. -/
theorem decode_busWriteOp {v : Variant} {r : BitVec 4} (h : registerPresent v r.toNat = true)
    (value : Nat) : decode v (.ctl (encodeCtl v [busWriteOp v r value])) = .ok [busWriteOp v r value] := by
  rcases eq_register_of_le_nine r (le_nine_of_registerPresent h) with
    rfl | rfl | rfl | rfl | rfl | rfl | rfl | rfl | rfl | rfl
  · exact decodeCtl_encodeCtl_singleton (i := .sel (bitsOfNat v.lanes value))
      (by simp [Instr.wellFormed, bitsOfNat]) rfl (by simp [tickOrder])
  · exact decodeCtl_encodeCtl_singleton (i := .rdlyRst) rfl rfl (by decide)
  · exact decodeCtl_encodeCtl_singleton (i := .rdlyInc) rfl rfl (by decide)
  · exact decodeCtl_encodeCtl_singleton (i := .bsRst) rfl rfl (by decide)
  · exact decodeCtl_encodeCtl_singleton (i := .bsInc) rfl rfl (by decide)
  · exact decodeCtl_encodeCtl_singleton (i := .wdlyRst) h rfl (by decide)
  · exact decodeCtl_encodeCtl_singleton (i := .wdlyInc) h rfl (by decide)
  · exact decodeCtl_encodeCtl_singleton (i := .wlevelEn (value.testBit 0)) h rfl (by simp [tickOrder])
  · exact decodeCtl_encodeCtl_singleton (i := .wlevelStb) h rfl (by decide)
  · exact decodeCtl_encodeCtl_singleton (i := .calNop) rfl rfl (by decide)

/-- Settles O21: the word of the operation that the register names, which it selects alone. -/
theorem busWriteBecomesOneOperation : Obligations.BusWriteBecomesOneOperation := fun v r value =>
  ⟨fun h => ⟨encodeCtl v [busWriteOp v r value], busWriteCtl_of_present h value, encodeCtl_length _ _,
    decode_busWriteOp h value⟩, fun h => busWriteCtl_of_absent h value⟩

/-- Settles O22, by evaluation of the decoder. -/
theorem writtenWordsDecode : Obligations.WrittenWordsDecode := by
  unfold Obligations.WrittenWordsDecode
  decide

/-- Settles O37: the function of the selector runs on the state with the stimulus taken and its operands in
place. -/
theorem stepRunsTheConstructionFunction : Obligations.StepRunsTheConstructionFunction := by
  intro s fn args rest i hscript hdecode
  have hi : decodeFn fn = i := List.singleton_inj.mp (Except.ok.inj hdecode)
  rw [step_construct hscript, runConstruct, hi]
  rfl

/-! Refused words -/

theorem decodeTick_of_ctl_refused {x : Phy} {i : TickInput} {e : DecodeError}
    (h : ctlRefusal (variantOf x.params) i.ctl = some e) : decodeTick x i = .error e := by
  simp [decodeTick, decode, decodeCtl, h]

theorem step_of_ctl_refused {s : State} {x : Phy} {i : TickInput} {rest : List Stimulus} {e : DecodeError}
    (hx : s.block = .live x) (hscript : s.script = .tick i :: rest)
    (h : ctlRefusal (variantOf x.params) i.ctl = some e) : step s = .refused (refusalOf e) := by
  rw [step_tick hscript]
  exact runTick_of_decode_error (s := s.withScript rest) hx (decodeTick_of_ctl_refused h)

theorem ctlRefusal_of_absent_odelay {v : Variant} {w : Bits} (hv : v.hasOdelay = false)
    (hbit : bitAt w 4 = true ∨ bitAt w 5 = true) : ctlRefusal v w = some .absentOperation :=
  if_pos ⟨hv, hbit⟩

theorem ctlRefusal_of_absent_wlevel {v : Variant} {w : Bits} (hv : v.hasWlevel = false)
    (hbit : bitAt w 6 = true ∨ bitAt w 7 = true ∨ bitAt w 8 = true) :
    ctlRefusal v w = some .absentOperation := by
  unfold ctlRefusal
  split
  · rfl
  · exact if_pos ⟨hv, hbit⟩

theorem ctlRefusal_of_conflict {v : Variant} {w : Bits}
    (hodelay : v.hasOdelay = false → bitAt w 4 = false ∧ bitAt w 5 = false)
    (hwlevel : v.hasWlevel = false → bitAt w 6 = false ∧ bitAt w 7 = false ∧ bitAt w 8 = false)
    (hconflict : (bitAt w 0 = true ∧ bitAt w 1 = true) ∨ (bitAt w 2 = true ∧ bitAt w 3 = true) ∨
      (bitAt w 4 = true ∧ bitAt w 5 = true)) : ctlRefusal v w = some .resetWithIncrement := by
  unfold ctlRefusal
  rw [if_neg, if_neg, if_pos hconflict]
  · rintro ⟨hv, hbit⟩
    obtain ⟨h6, h7, h8⟩ := hwlevel hv
    simp [h6, h7, h8] at hbit
  · rintro ⟨hv, hbit⟩
    obtain ⟨h4, h5⟩ := hodelay hv
    simp [h4, h5] at hbit

/-- Settles O43: the decoder refuses the word before any operation of the tick runs. -/
theorem reservedControlWordsAreRefused : Obligations.ReservedControlWordsAreRefused := by
  intro s x i rest hx hscript
  exact ⟨fun hv hbit => step_of_ctl_refused hx hscript (ctlRefusal_of_absent_odelay hv hbit),
    fun hv hbit => step_of_ctl_refused hx hscript (ctlRefusal_of_absent_wlevel hv hbit),
    fun hodelay hwlevel hconflict =>
      step_of_ctl_refused hx hscript (ctlRefusal_of_conflict hodelay hwlevel hconflict)⟩

end Sys2Proof.Machine
end

/-! ## The calibration state through a tick (10_state.md R23 to R29, 30_encoding.md R75) -/

section
namespace Sys2Proof.Machine

/-- The calibration state of a block (10_state.md R23 to R27). -/
structure Calibration where
  laneSelect : Bits
  inTap : List Nat
  outTap : List Nat
  rot : List Nat
  wlevelEn : Bool

def Phy.calibration (x : Phy) : Calibration :=
  { laneSelect := x.laneSelect, inTap := x.inTap, outTap := x.outTap, rot := x.rot, wlevelEn := x.wlevelEn }

theorem sameCalibration_iff {x y : Phy} : SameCalibration x y ↔ x.calibration = y.calibration := by
  simp [SameCalibration, Phy.calibration]

/-- The live block of the state has these parameters and this calibration state. -/
def ShowsCalibration (p : Params) (s : State) (c : Calibration) : Prop :=
  ∃ x, s.block = .live x ∧ x.params = p ∧ x.calibration = c

/-- What an operation does to the calibration state of a block with parameters `p`. -/
def calEffect (p : Params) : Instr → Calibration → Calibration
  | .rdlyRst, c => { c with inTap := pulseLanes c.laneSelect zeroed c.inTap }
  | .rdlyInc, c => { c with inTap := pulseLanes c.laneSelect (tapStep p) c.inTap }
  | .bsRst, c => { c with rot := pulseLanes c.laneSelect zeroed c.rot }
  | .bsInc, c => { c with rot := pulseLanes c.laneSelect (rotStep p) c.rot }
  | .wdlyRst, c => { c with outTap := pulseLanes c.laneSelect zeroed c.outTap }
  | .wdlyInc, c => { c with outTap := pulseLanes c.laneSelect (tapStep p) c.outTap }
  | .wlevelEn enable, c => { c with wlevelEn := enable }
  | .sel mask, c => { c with laneSelect := fitBits (lanesOf p) mask }
  | _, c => c

theorem exec_showsCalibration {p : Params} {i : Instr} {s t : State} {c : Calibration}
    (hi : ¬ IsConstruct i) (hc : ShowsCalibration p s c) (h : exec i s = .next t) :
    ShowsCalibration p t (calEffect p i c) := by
  obtain ⟨x, hx, rfl, rfl⟩ := hc
  cases i with
  | resolve | sysLatency | phaseAssign | buildSettings => exact absurd (by simp [IsConstruct]) hi
  | wren | rden | calNop | oe | oeDqs | dqsPre | dqsPost | rdValid | serCmd | serDq | serDm | serDqs
  | tristate | rdAssemble | rdLaneSelect | rdTapBase =>
    cases onLive_next_of_live hx h
    exact ⟨x, hx, rfl, rfl⟩
  | wrTrack | rdTrack | rdlyRst | rdlyInc | bsRst | bsInc | sel wdata | serPipe | desDq | bsAlign =>
    cases onLive_next_of_live hx h
    exact ⟨_, rfl, rfl, rfl⟩
  | wdlyRst | wdlyInc | wlevelEn wdata =>
    obtain ⟨-, ht⟩ := ifPresent_next (onLive_next_of_live hx h)
    cases ht
    exact ⟨_, rfl, rfl, rfl⟩
  | wlevelStb =>
    obtain ⟨-, ht⟩ := ifPresent_next (onLive_next_of_live hx h)
    cases ht
    exact ⟨x, hx, rfl, rfl⟩
  | rdWlevelEn =>
    have hread := onLive_next_of_live hx h
    split at hread
    · cases hread
      exact ⟨x, hx, rfl, rfl⟩
    · cases hread

/-- The calibration state after several operations of a tick. -/
def calEffects (p : Params) (ops : List Instr) (c : Calibration) : Calibration :=
  ops.foldl (fun d i => calEffect p i d) c

theorem calEffects_append (p : Params) (first rest : List Instr) (c : Calibration) :
    calEffects p (first ++ rest) c = calEffects p rest (calEffects p first c) :=
  List.foldl_append

theorem calEffects_cons (p : Params) (i : Instr) (rest : List Instr) (c : Calibration) :
    calEffects p (i :: rest) c = calEffects p rest (calEffect p i c) := rfl

theorem calEffects_of_neutral {p : Params} {ops : List Instr} (h : ∀ i ∈ ops, ∀ c, calEffect p i c = c)
    (c : Calibration) : calEffects p ops c = c := by
  induction ops with
  | nil => rfl
  | cons i rest ih =>
    obtain ⟨hi, hrest⟩ := List.forall_mem_cons.mp h
    rw [calEffects_cons, hi, ih hrest]

/-- Leaving out the operations that run before those of `TICK` changes nothing: `WLEVEL_STB` writes no state
(45_write_leveling.md R191). -/
theorem calEffects_filter_beforeTick (p : Params) (ops : List Instr) (c : Calibration) :
    calEffects p (ops.filter fun i => !beforeTick i) c = calEffects p ops c := by
  induction ops generalizing c with
  | nil => rfl
  | cons i rest ih =>
    by_cases hi : i = .wlevelStb
    · subst hi
      exact ih c
    · rw [List.filter_cons_of_pos (by simp [beforeTick, hi]), calEffects_cons, calEffects_cons, ih]

theorem calEffects_orCalNop (p : Params) (ops : List Instr) (c : Calibration) :
    calEffects p (orCalNop ops) c = calEffects p ops c := by
  cases ops <;> rfl

/-- In the sequence of a tick only the operations of the control word act on the calibration state. -/
theorem calEffects_schedule {p : Params} {v : Variant} {r : Option (BitVec 4)} {bus : List Instr}
    (hbus : busOps v r = .ok bus) (flow : BitVec 2) (cal : List Instr) (c : Calibration) :
    calEffects p (schedule bus (decodeFlow flow) cal) c = calEffects p cal c := by
  have hread : ∀ i ∈ bus, ∀ c, calEffect p i c = c := fun i hi c => by
    rcases isBusRead_of_busOps hbus i hi with rfl | rfl | rfl <;> rfl
  have hflow : ∀ i ∈ decodeFlow flow, ∀ c, calEffect p i c = c := fun i hi c => by
    rcases mem_decodeFlow hi with rfl | rfl <;> rfl
  have hbefore : ∀ i ∈ cal.filter beforeTick, ∀ c, calEffect p i c = c := fun i hi c => by
    obtain rfl := of_decide_eq_true (List.mem_filter.mp hi).2
    rfl
  have htick : calEffects p tickOrder c = c := rfl
  simp only [schedule, calEffects_append, calEffects_of_neutral hread, calEffects_of_neutral hflow,
    calEffects_of_neutral hbefore, htick, calEffects_filter_beforeTick]

/-- All that a completed tick does to the calibration state: the operations of its control word, which is an
accepted one. -/
theorem runTick_calibration {s t : State} {x y : Phy} {i : TickInput} (hx : s.block = .live x)
    (h : runTick s i = .next t) (hy : t.block = .live y) :
    ctlRefusal (variantOf x.params) i.ctl = none ∧
      y.calibration = calEffects x.params (ctlOps (variantOf x.params) i.ctl) x.calibration := by
  obtain ⟨x', ops, u, hx', hops, hrun, rfl⟩ := runTick_next h
  cases hx.symm.trans hx'
  obtain ⟨bus, cal, hctl, hbus, rfl⟩ := decodeTick_ok hops
  have hshow := runOps_foldl (R := ShowsCalibration x.params) exec_showsCalibration
    (decodeTick_not_isConstruct hops) (s := beginTick s i) ⟨x, hx, rfl, rfl⟩ hrun
  obtain ⟨y', hy', -, hcal⟩ := hshow
  cases hy'.symm.trans hy
  obtain ⟨haccepted, rfl⟩ := decodeCtl_ok hctl
  refine ⟨haccepted, hcal.trans ?_⟩
  rw [← calEffects_orCalNop]
  exact calEffects_schedule hbus _ _ _

/-- A counter under the reset and the increment bit of its resource. -/
def pulsed (select : Bits) (rst inc : Bool) (step : Nat → Nat) (v : List Nat) : List Nat :=
  if inc then pulseLanes select step (if rst then pulseLanes select zeroed v else v)
  else if rst then pulseLanes select zeroed v else v

theorem calEffects_rdly (p : Params) (rst inc : Bool) (c : Calibration) :
    calEffects p (if inc then [.rdlyInc] else []) (calEffects p (if rst then [.rdlyRst] else []) c) =
      { c with inTap := pulsed c.laneSelect rst inc (tapStep p) c.inTap } := by
  cases rst <;> cases inc <;> rfl

theorem calEffects_bs (p : Params) (rst inc : Bool) (c : Calibration) :
    calEffects p (if inc then [.bsInc] else []) (calEffects p (if rst then [.bsRst] else []) c) =
      { c with rot := pulsed c.laneSelect rst inc (rotStep p) c.rot } := by
  cases rst <;> cases inc <;> rfl

theorem calEffects_wdly (p : Params) (rst inc : Bool) (c : Calibration) :
    calEffects p (if inc then [.wdlyInc] else []) (calEffects p (if rst then [.wdlyRst] else []) c) =
      { c with outTap := pulsed c.laneSelect rst inc (tapStep p) c.outTap } := by
  cases rst <;> cases inc <;> rfl

/-- The calibration state after a control word, element by element; every pulse sees the mask before it, for
`SEL` comes last. -/
theorem calEffects_ctlOps (p : Params) (v : Variant) (w : Bits) (c : Calibration) :
    calEffects p (ctlOps v w) c =
      { laneSelect := if bitAt w 9 then fitBits (lanesOf p) (selWdata v w) else c.laneSelect,
        inTap := pulsed c.laneSelect (bitAt w 0) (bitAt w 1) (tapStep p) c.inTap,
        outTap := pulsed c.laneSelect (bitAt w 4) (bitAt w 5) (tapStep p) c.outTap,
        rot := pulsed c.laneSelect (bitAt w 2) (bitAt w 3) (rotStep p) c.rot,
        wlevelEn := if bitAt w 7 then bitAt w 8 else c.wlevelEn } := by
  simp only [ctlOps, calEffects_append, calEffects_rdly, calEffects_bs, calEffects_wdly]
  cases bitAt w 6 <;> cases bitAt w 7 <;> cases bitAt w 9 <;> rfl

/-! What a tick leaves in each element, and what it leaves alone -/

theorem pulsed_false (select : Bits) (step : Nat → Nat) (v : List Nat) :
    pulsed select false false step v = v := rfl

theorem pulsed_getElem?_of_not_selected {select : Bits} {lane : Nat} (h : bitAt select lane = false)
    (rst inc : Bool) (step : Nat → Nat) (v : List Nat) :
    (pulsed select rst inc step v)[lane]? = v[lane]? := by
  cases rst <;> cases inc <;> simp [pulsed, pulseLanes_getElem?, h]

theorem pulseLanes_getD_of_selected {select : Bits} {lane : Nat} (h : bitAt select lane = true)
    (f : Nat → Nat) {v : List Nat} (hlane : lane < v.length) :
    (pulseLanes select f v).getD lane 0 = f (v.getD lane 0) := by
  have hget : (pulseLanes select f v)[lane]? = some (f v[lane]) := by
    rw [pulseLanes_getElem?, List.getElem?_eq_getElem hlane, Option.map_some, if_pos h]
  rw [List.getD_eq_getElem?_getD, hget, List.getD_eq_getElem _ _ hlane, Option.getD_some]

/-- A selected lane under the one pulse that an accepted word can hold for its counter. -/
theorem pulsed_getD_of_selected {select : Bits} {lane : Nat} {rst inc : Bool} {v : List Nat}
    (h : bitAt select lane = true) (hconflict : ¬ (rst = true ∧ inc = true))
    (hlane : rst = true ∨ inc = true → lane < v.length) (step : Nat → Nat) :
    (rst = true → (pulsed select rst inc step v).getD lane 0 = 0) ∧
      (inc = true → (pulsed select rst inc step v).getD lane 0 = step (v.getD lane 0)) := by
  cases rst with
  | true =>
    obtain rfl : inc = false := by simpa using hconflict
    exact ⟨fun _ => pulseLanes_getD_of_selected h zeroed (hlane (.inl rfl)), nofun⟩
  | false =>
    refine ⟨nofun, fun hinc => ?_⟩
    subst hinc
    exact pulseLanes_getD_of_selected h step (hlane (.inr rfl))

/-- The elements of the calibration state after a completed tick. -/
theorem runTick_calibration_elements {s t : State} {x y : Phy} {i : TickInput} (hx : s.block = .live x)
    (h : runTick s i = .next t) (hy : t.block = .live y) :
    y.laneSelect = (if bitAt i.ctl 9 then fitBits (lanesOf x.params) (selWdata (variantOf x.params) i.ctl)
      else x.laneSelect) ∧
    y.inTap = pulsed x.laneSelect (bitAt i.ctl 0) (bitAt i.ctl 1) (tapStep x.params) x.inTap ∧
    y.outTap = pulsed x.laneSelect (bitAt i.ctl 4) (bitAt i.ctl 5) (tapStep x.params) x.outTap ∧
    y.rot = pulsed x.laneSelect (bitAt i.ctl 2) (bitAt i.ctl 3) (rotStep x.params) x.rot ∧
    y.wlevelEn = if bitAt i.ctl 7 then bitAt i.ctl 8 else x.wlevelEn := by
  obtain ⟨-, hcal⟩ := runTick_calibration hx h hy
  rw [calEffects_ctlOps] at hcal
  exact Calibration.mk.inj hcal

/-- Settles O48: the calibration state after a tick is `calEffects` of the control word's operations, which no
other input reaches. -/
theorem trafficLeavesCalibrationStateAlone : Obligations.TrafficLeavesCalibrationStateAlone := by
  intro s t x y i hx h hy
  obtain ⟨-, hcal⟩ := runTick_calibration hx h hy
  refine ⟨fun hquiet => ?_, fun k u v z w hz hparams hsame hctl hrun hw => ?_⟩
  · rw [sameCalibration_iff, hcal, calEffects_ctlOps]
    simp [hquiet, pulsed_false, Phy.calibration]
  · obtain ⟨-, hcal'⟩ := runTick_calibration hz hrun hw
    rw [sameCalibration_iff, hcal', hcal, hparams, hctl, sameCalibration_iff.mp hsame]

/-- Settles O46: each element is read off the calibration state after the tick; an accepted word has no
conflict, so a pulsed counter has the one pulse only. -/
theorem pulsesUseTheMaskOfThePreState : Obligations.PulsesUseTheMaskOfThePreState := by
  intro s t x y i hx inv h hy
  obtain ⟨haccepted, -⟩ := runTick_calibration hx h hy
  obtain ⟨hsel, hin, hout, hrot, -⟩ := runTick_calibration_elements hx h hy
  refine ⟨fun h9 l hl => ?_, fun h9 => by simp [hsel, h9], fun l _ hmask => ?_, fun l hl hmask => ?_⟩
  · rw [hsel, if_pos h9, bitAt_fitBits, if_pos hl]
    exact bitAt_wordOf_of_lt _ hl
  · rw [hin, hout, hrot]
    exact ⟨pulsed_getElem?_of_not_selected hmask .., pulsed_getElem?_of_not_selected hmask ..,
      pulsed_getElem?_of_not_selected hmask ..⟩
  · obtain ⟨-, -, hconflict⟩ := ctlRefusal_eq_none_iff.mp haccepted
    obtain ⟨hrdly, hbs, hwdly⟩ := not_or.mp hconflict |>.imp_right not_or.mp
    have hlout (hbit : bitAt i.ctl 4 = true ∨ bitAt i.ctl 5 = true) : l < x.outTap.length := by
      have hodelay : x.params.hasOdelay = true := (present_of_not_refused haccepted).1 hbit
      rw [inv.outTap, if_pos hodelay]
      exact hl
    obtain ⟨hrdlyRst, hrdlyInc⟩ := pulsed_getD_of_selected (v := x.inTap) hmask hrdly
      (fun _ => inv.inTap ▸ hl) (tapStep x.params)
    obtain ⟨hbsRst, hbsInc⟩ := pulsed_getD_of_selected (v := x.rot) hmask hbs
      (fun _ => inv.rot ▸ hl) (rotStep x.params)
    obtain ⟨hwdlyRst, hwdlyInc⟩ := pulsed_getD_of_selected (v := x.outTap) hmask hwdly hlout
      (tapStep x.params)
    rw [hin, hout, hrot]
    exact ⟨hrdlyRst, hrdlyInc, hbsRst, hbsInc, hwdlyRst, hwdlyInc⟩

end Sys2Proof.Machine
end

/-! ## Ignored operand bits (30_encoding.md R77(d)) -/

section
namespace Sys2Proof.Machine

/-- Control words that agree in what is read select the same operations. -/
theorem ctlOps_of_sameCtl {v : Variant} {w u : Bits} (h : SameCtl v w u) : ctlOps v u = ctlOps v w := by
  obtain ⟨hops, henable, hmask⟩ := h
  have hsel (h9 : bitAt u 9 = true) : selWdata v u = selWdata v w := by
    rw [← hops 9 (.inr rfl)] at h9
    refine bits_ext (by simp [selWdata]) fun l hl => ?_
    have hl' : l < v.lanes := by simpa [selWdata] using hl
    rw [selWdata, selWdata, bitAt_wordOf_of_lt _ hl', bitAt_wordOf_of_lt _ hl', hmask h9 l hl']
  have hlevel (h7 : bitAt u 7 = true) : bitAt u 8 = bitAt w 8 := by
    rw [← hops 7 (by omega)] at h7
    exact (henable h7).symm
  rw [ctlOps_eq_filter hlevel hsel, ctlOps_eq_filter_self v w]
  exact List.filter_congr fun k hk => (hops _ (ctlIndex_lt hk)).symm

/-- With the leveling controller present, `WLEVEL_EN_WDATA` does not decide on a refusal. -/
theorem ctlRefusal_of_sameCtl {v : Variant} {w u : Bits} (hv : v.hasWlevel = true) (h : SameCtl v w u) :
    ctlRefusal v u = ctlRefusal v w := by
  obtain ⟨hops, -, -⟩ := h
  have hlow (j : Nat) (hj : j < 6) : bitAt u j = bitAt w j := (hops j (by omega)).symm
  simp only [ctlRefusal, hv, hlow, Nat.reduceLT, Bool.true_eq_false, false_and, if_false]

/-- `s` with another control word among its inputs. -/
def State.withCtl (s : State) (w : Bits) : State := s.withInput { s.inp with ctl := w }

/-- An operation commutes with an update that keeps the block, if it does so on every live block. -/
theorem onLive_mapNext {g : State → State} {s : State} (hg : (g s).block = s.block) {f f' : Phy → Result}
    (h : ∀ x, f' x = mapNext g (f x)) : onLive (g s) f' = mapNext g (onLive s f) := by
  cases hb : s.block with
  | live x => rw [onLive_live hb, onLive_live (hg.trans hb), h]
  | failed e => rw [onLive_failed hb, onLive_failed (hg.trans hb)]; rfl

/-- The induction over the operations of a tick, once for every update that commutes with each of them. -/
theorem runOps_mapNext {g : State → State} {ops : List Instr}
    (h : ∀ op ∈ ops, ∀ s, exec op (g s) = mapNext g (exec op s)) (s : State) :
    runOps ops (g s) = mapNext g (runOps ops s) := by
  induction ops generalizing s with
  | nil => rfl
  | cons op rest ih =>
    obtain ⟨hop, hrest⟩ := List.forall_mem_cons.mp h
    rw [runOps, runOps, hop]
    cases exec op s with
    | next t => exact ih hrest t
    | fault f => rfl
    | refused f => rfl

/-- No operation of a tick reads the control word: its operand is an argument. -/
theorem exec_withCtl {i : Instr} (hi : ¬ IsConstruct i) (w : Bits) (s : State) :
    exec i (s.withCtl w) = mapNext (State.withCtl · w) (exec i s) := by
  cases i with
  | resolve | sysLatency | phaseAssign | buildSettings => exact absurd (by simp [IsConstruct]) hi
  | rdlyRst | rdlyInc | bsRst | bsInc | sel wdata | calNop | wren | rden | serCmd | serDq | serDm | serDqs
  | tristate | serPipe | desDq | rdAssemble | wrTrack | oe | oeDqs | dqsPre | dqsPost | rdTrack | rdValid
  | bsAlign | rdLaneSelect | rdTapBase =>
    exact onLive_mapNext (g := (State.withCtl · w)) rfl fun _ => rfl
  | wdlyRst | wdlyInc | wlevelStb | wlevelEn wdata =>
    exact onLive_mapNext (g := (State.withCtl · w)) rfl fun _ => by apply ifPresent_eq_mapNext; rfl
  | rdWlevelEn => exact onLive_mapNext (g := (State.withCtl · w)) rfl fun x => by split <;> rfl

theorem decodeTick_of_sameCtl {x : Phy} {i : TickInput} {w : Bits} (hv : x.params.hasWlevel = true)
    (h : SameCtl (variantOf x.params) i.ctl w) : decodeTick x { i with ctl := w } = decodeTick x i := by
  have hrefusal := ctlRefusal_of_sameCtl (v := variantOf x.params) hv h
  have hctl : decode (variantOf x.params) (.ctl w) = decode (variantOf x.params) (.ctl i.ctl) := by
    simp only [decode, decodeCtl, hrefusal, ctlOps_of_sameCtl h]
  unfold decodeTick
  rw [hctl]
  rfl

/-- Settles O20: both words select the same operations, and no operation sees the word itself. -/
theorem ignoredOperandBitsHaveNoEffect : Obligations.IgnoredOperandBitsHaveNoEffect := by
  intro s t x i w hx hv hsame h
  obtain ⟨x', ops, u, hx', hops, hrun, rfl⟩ := runTick_next h
  cases hx.symm.trans hx'
  have hrun' : runOps ops (beginTick s { i with ctl := w }) = .next (u.withCtl w) := by
    have hcommute := runOps_mapNext (g := (State.withCtl · w))
      (fun op hop => exec_withCtl (decodeTick_not_isConstruct hops op hop) w) (beginTick s i)
    rw [hrun] at hcommute
    exact hcommute
  exact ⟨_, runTick_of_runOps hx ((decodeTick_of_sameCtl hv hsame).trans hops) hrun', rfl, rfl, rfl, rfl⟩

end Sys2Proof.Machine
end

/-! ## `cal.zero` (30_encoding.md R82, 70_reset_and_hazards.md R232) -/

section
namespace Sys2Proof.Machine

/-- A tick with accepted words completes (46_system_tick.md R204). -/
theorem runTick_of_accepted {s : State} {x : Phy} {i : TickInput} (hx : s.block = .live x)
    (h : Accepted x i) : ∃ t y, runTick s i = .next t ∧ t.block = .live y ∧ y.params = x.params := by
  obtain ⟨hctl, hregister⟩ := h
  obtain ⟨bus, hbus, hbuswf⟩ : ∃ bus, busOps (variantOf x.params) i.busRead = .ok bus ∧
      ∀ op ∈ bus, op.wellFormed (variantOf x.params) = true := by
    cases hread : i.busRead with
    | none => exact ⟨[], rfl, by simp⟩
    | some r =>
      obtain ⟨bus, hdecode, hwf, -⟩ := decodeReg_of_present (hregister r hread)
      exact ⟨bus, hdecode, hwf⟩
  have hops := decodeTick_of_accepted hctl hbus
  obtain ⟨t, ht⟩ := runOps_completes (s := beginTick s i) hx fun op hop =>
    ⟨decodeTick_not_isConstruct hops op hop,
      schedule_wellFormed hbuswf (ctlOps_wellFormed hctl) op hop⟩
  have htick := runTick_of_runOps hx hops ht
  obtain ⟨y, hy, hp, -⟩ := runTick_constants hx htick
  exact ⟨_, y, htick, hy, hp⟩

/-- A line of a script is one tick, which runs the operations of the line (30_encoding.md R81). -/
theorem runTick_line {s : State} {x : Phy} {enable : Bool} {mask : Bits} {line : List Instr}
    (hx : s.block = .live x) (hlen : mask.length = lanesOf x.params)
    (hsub : line.Sublist (ctlCanon enable mask))
    (hwf : ∀ op ∈ line, op.wellFormed (variantOf x.params) = true) (hconflict : NoConflict line)
    (z : Phy) (hz : z.params = x.params) (base : TickInput) :
    ∃ t y, runTick s (lineInput z base line) = .next t ∧ t.block = .live y ∧ y.params = x.params ∧
      y.calibration = calEffects x.params line x.calibration := by
  have hctl : (lineInput z base line).ctl = encodeCtl (variantOf x.params) line := by
    rw [← hz]
    rfl
  have haccepted : Accepted x (lineInput z base line) :=
    ⟨by rw [hctl]; exact ctlRefusal_encodeCtl hsub.subset hwf hconflict, nofun⟩
  obtain ⟨t, y, ht, hy, hp⟩ := runTick_of_accepted hx haccepted
  obtain ⟨-, hcal⟩ := runTick_calibration hx ht hy
  rw [hctl, ctlOps_encodeCtl hlen hsub] at hcal
  exact ⟨t, y, ht, hy, hp, hcal⟩

theorem core_run_succ {M : Host.Core} {s t : M.State} (h : M.step s = .next t) (k : Nat) :
    M.run (k + 1) s = M.run k t := by
  simp only [Host.Core.run, h]

theorem run_succ_of_tick {s t : State} {i : TickInput} {rest : List Stimulus}
    (hscript : s.script = .tick i :: rest) (h : runTick (s.withScript rest) i = .next t) (k : Nat) :
    Host.Core.run Sys2Proof.core (k + 1) s = Host.Core.run Sys2Proof.core k t :=
  core_run_succ (M := Sys2Proof.core) ((step_tick hscript).trans h) k

/-- The second line of `cal.zero`. -/
def zeroLine (v : Variant) : List Instr :=
  [Instr.rdlyRst, Instr.bsRst] ++ if v.hasOdelay then [Instr.wdlyRst] else []

theorem calZeroLines_eq (v : Variant) :
    calZeroLines v = [[.sel (List.replicate v.lanes true)], zeroLine v] := rfl

theorem zeroLine_sublist (v : Variant) (enable : Bool) (mask : Bits) :
    (zeroLine v).Sublist (ctlCanon enable mask) := by
  unfold zeroLine
  cases v.hasOdelay with
  | true => exact .cons_cons _ (.cons _ (.cons_cons _ (.cons _ (.cons_cons _ (List.nil_sublist _)))))
  | false => exact .cons_cons _ (.cons _ (.cons_cons _ (List.nil_sublist _)))

theorem zeroLine_wellFormed (v : Variant) : ∀ op ∈ zeroLine v, op.wellFormed v = true := by
  cases hv : v.hasOdelay <;> simp [zeroLine, hv, Instr.wellFormed]

theorem zeroLine_noConflict (v : Variant) : NoConflict (zeroLine v) := by
  cases hv : v.hasOdelay <;> simp [zeroLine, hv, NoConflict]

theorem calEffects_sel (p : Params) {mask : Bits} (h : mask.length = lanesOf p) (c : Calibration) :
    calEffects p [.sel mask] c = { c with laneSelect := mask } :=
  congrArg (fun m => { c with laneSelect := m }) (fitBits_eq_self h)

theorem calEffects_zeroLine (p : Params) (v : Variant) (c : Calibration) :
    calEffects p (zeroLine v) c =
      { c with
        inTap := pulseLanes c.laneSelect zeroed c.inTap,
        rot := pulseLanes c.laneSelect zeroed c.rot,
        outTap := if v.hasOdelay then pulseLanes c.laneSelect zeroed c.outTap else c.outTap } := by
  unfold zeroLine
  cases v.hasOdelay <;> rfl

theorem pulseLanes_all_zeroed {n : Nat} {v : List Nat} (h : v.length = n) :
    pulseLanes (List.replicate n true) zeroed v = List.replicate n 0 := by
  refine List.eq_replicate_iff.mpr ⟨by simp [h], fun b hb => ?_⟩
  obtain ⟨lane, hlane, rfl⟩ := List.getElem_of_mem hb
  have hselected : bitAt (List.replicate n true) lane = true := by
    rw [bitAt_eq_getElem (by simpa [h] using hlane), List.getElem_replicate]
  simp [pulseLanes, hselected, zeroed]

/-- Settles O60: the first tick selects all lanes, the second zeroes every counter of a selected lane. -/
theorem calZeroZeroesEveryLane : Obligations.CalZeroZeroesEveryLane := by
  intro s x base hx inv
  have hlen : (List.replicate (lanesOf x.params) true).length = lanesOf x.params := List.length_replicate
  obtain ⟨t, y, ht, hy, hyp, hycal⟩ := runTick_line (enable := false)
    (s := s.withScript [.tick (lineInput x base (zeroLine (variantOf x.params)))])
    (line := [.sel (List.replicate (lanesOf x.params) true)]) hx hlen (by simp [ctlCanon])
    (by simp [Instr.wellFormed, variantOf]) (by simp [NoConflict]) x rfl base
  obtain ⟨u, z, hu, hz, hzp, hzcal⟩ := runTick_line (enable := false) (s := t.withScript [])
    (mask := List.replicate (lanesOf x.params) true) (line := zeroLine (variantOf x.params)) hy
    (by rw [hyp, hlen]) (zeroLine_sublist _ _ _) (by rw [hyp]; exact zeroLine_wellFormed _)
    (zeroLine_noConflict _) x hyp.symm base
  refine ⟨u, z, ?_, hz, ?_⟩
  · rw [calZeroLines_eq]
    exact (run_succ_of_tick (s := s.withScript (scriptOf x base _)) rfl ht 1).trans
      (run_succ_of_tick (runTick_script ht) hu 0)
  · rw [hycal, hyp, calEffects_sel _ hlen, calEffects_zeroLine] at hzcal
    obtain ⟨hsel, hin, hout, hrot, hlevel⟩ := Calibration.mk.inj hzcal
    refine ⟨hsel, hin.trans (pulseLanes_all_zeroed inv.inTap), hrot.trans (pulseLanes_all_zeroed inv.rot),
      fun hodelay => ?_, hlevel⟩
    have hlout : x.outTap.length = lanesOf x.params := by rw [inv.outTap, if_pos hodelay]
    rw [hout, if_pos (show (variantOf x.params).hasOdelay = true from hodelay)]
    exact pulseLanes_all_zeroed hlout

end Sys2Proof.Machine
end

/-! ## The Timing Resolver (40_construction.md R100 to R103) -/

section
namespace Sys2Proof.Machine

/-- The integer test of the model is R101's test over exact rationals. -/
theorem binServes_iff {period : Ratio} {b : SpeedBin} (hp : ratioPositive period = true)
    (hb : ratioPositive b.f = true) :
    binServes period b = true ↔ 2 ≤ ratioValue period * ratioValue b.f := by
  obtain ⟨-, hpden⟩ := ratioPositive_iff.mp hp
  obtain ⟨-, hbden⟩ := ratioPositive_iff.mp hb
  have hden : (0 : ℚ) < period.den * b.f.den := by positivity
  rw [binServes, decide_eq_true_eq, ratioValue, ratioValue, div_mul_div_comm, le_div_iff₀ hden]
  exact_mod_cast Iff.rfl

theorem binServes_eq_false_iff {period : Ratio} {b : SpeedBin} (hp : ratioPositive period = true)
    (hb : ratioPositive b.f = true) :
    binServes period b = false ↔ ratioValue period * ratioValue b.f < 2 := by
  rw [← Bool.not_eq_true, binServes_iff hp hb, not_le]

theorem mem_of_binsOf {table : List (Family × List SpeedBin)} {family : Family} {bins : List SpeedBin}
    (h : binsOf table family = some bins) : ∃ e ∈ table, e.2 = bins := by
  obtain ⟨e, he, hbins⟩ := Option.map_eq_some_iff.mp h
  exact ⟨e, List.mem_of_find?_eq_some he, hbins⟩

theorem ratioPositive_of_binsAscending {bins : List SpeedBin} (h : binsAscending bins = true) :
    ∀ b ∈ bins, ratioPositive b.f = true := by
  induction bins with
  | nil => exact nofun
  | cons c rest ih =>
    obtain ⟨hc, hrest, -⟩ := binsAscending_cons h
    exact List.forall_mem_cons.mpr ⟨hc, ih hrest⟩

theorem ratioPositive_of_tableLegal {table : List (Family × List SpeedBin)} {family : Family}
    {bins : List SpeedBin} (ht : tableLegal table = true) (hbins : binsOf table family = some bins) :
    ∀ b ∈ bins, ratioPositive b.f = true := by
  obtain ⟨hascending, -⟩ := Bool.and_eq_true_iff.mp ht
  obtain ⟨e, he, rfl⟩ := mem_of_binsOf hbins
  exact ratioPositive_of_binsAscending (List.all_eq_true.mp hascending e he)

/-- Entry `k` is the first that serves the period, by the test of 40_construction.md R101. -/
def FirstServing (bins : List SpeedBin) (period : Ratio) (k : Nat) (hk : k < bins.length) : Prop :=
  2 ≤ ratioValue period * ratioValue bins[k].f ∧
    ∀ (j : Nat) (hj : j < k), ratioValue period * ratioValue bins[j].f < 2

section
variable {table : List (Family × List SpeedBin)} {family : Family} {bins : List SpeedBin} {period : Ratio}

theorem resolve_eq_ok_iff (hbins : binsOf table family = some bins)
    (hpos : ∀ b ∈ bins, ratioPositive b.f = true) (hp : ratioPositive period = true) {r : Int × Int} :
    resolve table family period = .ok r ↔
      ∃ (k : Nat) (hk : k < bins.length),
        r = (bins[k].cl, bins[k].cwl) ∧ FirstServing bins period k hk := by
  have hserves (j : Nat) (hj : j < bins.length) := binServes_iff hp (hpos bins[j] (bins.getElem_mem hj))
  have hfails (j : Nat) (hj : j < bins.length) :=
    binServes_eq_false_iff hp (hpos bins[j] (bins.getElem_mem hj))
  constructor
  · intro h
    cases hfind : bins.find? (binServes period) with
    | none => simp [resolve, hbins, hfind] at h
    | some b =>
      obtain ⟨hb, k, hk, rfl, hbefore⟩ := List.find?_eq_some_iff_getElem.mp hfind
      have hr : (bins[k].cl, bins[k].cwl) = r := by simpa [resolve, hbins, hfind] using h
      exact ⟨k, hk, hr.symm, (hserves k hk).mp hb,
        fun j hj => (hfails j (hj.trans hk)).mp (by simpa using hbefore j hj)⟩
  · rintro ⟨k, hk, rfl, hserve, hbefore⟩
    have hfind : bins.find? (binServes period) = some bins[k] :=
      List.find?_eq_some_iff_getElem.mpr ⟨(hserves k hk).mpr hserve, k, hk, rfl,
        fun j hj => by simpa using (hfails j (hj.trans hk)).mpr (hbefore j hj)⟩
    simp [resolve, hbins, hfind]

theorem resolve_eq_error (hbins : binsOf table family = some bins)
    (hnone : ∀ b ∈ bins, binServes period b = false) :
    resolve table family period = .error (.unsupportedConfiguration family (some period)) := by
  have hfind : bins.find? (binServes period) = none :=
    List.find?_eq_none.mpr fun b hb => by simp [hnone b hb]
  simp [resolve, hbins, hfind]

end

/-- A longer period is served by every entry that serves a shorter one (40_construction.md R103). -/
theorem FirstServing.index_antitone {bins : List SpeedBin} {p1 p2 : Ratio} {i1 i2 : Nat}
    {h1 : i1 < bins.length} {h2 : i2 < bins.length} (hle : ratioValue p1 ≤ ratioValue p2)
    (hfirst1 : FirstServing bins p1 i1 h1) (hfirst2 : FirstServing bins p2 i2 h2) : i2 ≤ i1 := by
  by_contra hlt
  have hf : 0 ≤ ratioValue bins[i1].f := by unfold ratioValue; positivity
  exact absurd (hfirst1.1.trans (mul_le_mul_of_nonneg_right hle hf))
    (not_le.mpr (hfirst2.2 i1 (not_le.mp hlt)))

/-- The exact rational of 800 MT/s in the form of `resolve_attested`. -/
theorem num_mul_eq_den_of_ratioValue {period : Ratio} (hp : ratioPositive period = true)
    (h : ratioValue period = 2 / 800000000) : period.num * 400000000 = period.den := by
  obtain ⟨-, hden⟩ := ratioPositive_iff.mp hp
  have hden' : (period.den : ℚ) ≠ 0 := by exact_mod_cast hden.ne'
  rw [ratioValue, div_eq_iff hden'] at h
  have hnum : (period.num : ℚ) * 400000000 = period.den := by
    rw [h]
    ring
  exact_mod_cast hnum

theorem exec_resolve_of_ok {s : State} {r : Int × Int}
    (h : resolveOperands s.args.params.clCwlTable s.args.family s.args.clockPeriod = .ok r) :
    exec .resolve s = .next { s with out := { s.out with resolved := some r } } := by
  simp only [exec, execResolve, h]
  rfl

theorem exec_resolve_of_error {s : State} {e : ConstructError}
    (h : resolveOperands s.args.params.clCwlTable s.args.family s.args.clockPeriod = .error e) :
    exec .resolve s = .next (raiseConstruct s e) := by
  simp only [exec, execResolve, h]

theorem resolveOperands_of_unknown {table : List (Family × List SpeedBin)} {family : Family}
    (h : binsOf table family = none) (period : Ratio) :
    resolveOperands table family period = .error (.unsupportedConfiguration family none) := by
  rcases resolveOperands_cases table family period with ⟨-, heq⟩ | ⟨⟨bins, hbins⟩, -⟩
  · exact heq.trans (binsOf_isNone_resolve h)
  · rw [h] at hbins
    cases hbins

/-- Settles O1: the model's search over integers finds the first entry of the rational test. -/
theorem resolveSelectsFirstServingEntry : Obligations.ResolveSelectsFirstServingEntry := by
  refine ⟨fun v => Laws.RoundTrip.resolve v rfl, fun s => ⟨fun hunknown => ?_, fun hp ht => ?_, ?_⟩⟩
  · exact exec_resolve_of_error (resolveOperands_of_unknown hunknown _)
  · have hops := resolveOperands_of_legal (family := s.args.family) hp ht
    refine ⟨fun bins k hk hbins hserve hbefore => ?_, fun bins hbins hnone => ?_, fun hfam h800 => ?_⟩
    · exact exec_resolve_of_ok (hops.trans
        ((resolve_eq_ok_iff hbins (ratioPositive_of_tableLegal ht hbins) hp).mpr
          ⟨k, hk, rfl, hserve, hbefore⟩))
    · have hpos := ratioPositive_of_tableLegal ht hbins
      exact exec_resolve_of_error (hops.trans (resolve_eq_error hbins fun b hb =>
        (binServes_eq_false_iff hp (hpos b hb)).mpr (hnone b hb)))
    · have hattested := resolve_attested ht hp (num_mul_eq_den_of_ratioValue hp h800)
      exact exec_resolve_of_ok (hops.trans (by rw [hfam, hattested]))
  · intro hknown hunstated
    rcases resolveOperands_cases s.args.params.clCwlTable s.args.family s.args.clockPeriod with
      ⟨hstated, -⟩ | ⟨-, ⟨r, hr⟩ | herror⟩
    · rcases hstated with hnone | ⟨hp, ht⟩
      · simp [hnone] at hknown
      · simp [hp, ht] at hunstated
    · exact .inl ⟨r, exec_resolve_of_ok hr⟩
    · exact .inr (exec_resolve_of_error herror)

/-- Settles O2: both results are those of a first serving entry, and their indices are ordered. -/
theorem resolveIsMonotone : Obligations.ResolveIsMonotone := by
  intro table family bins p1 p2 r1 r2 hbins hpos hp1 hp2 hle hr1 hr2
  obtain ⟨i1, h1, rfl, hfirst1⟩ := (resolve_eq_ok_iff hbins hpos hp1).mp hr1
  obtain ⟨i2, h2, rfl, hfirst2⟩ := (resolve_eq_ok_iff hbins hpos hp2).mp hr2
  have hindex := hfirst1.index_antitone hle hfirst2
  obtain ⟨hserve1, hbefore1⟩ := hfirst1
  obtain ⟨hserve2, hbefore2⟩ := hfirst2
  exact ⟨i1, i2, h1, h2, hindex, rfl, rfl, hserve1, hbefore1, hserve2, hbefore2⟩

end Sys2Proof.Machine
end

/-! ## The Latency Planner's functions (40_construction.md R105, R106) -/

section
namespace Sys2Proof.Machine

/-- The least integer at or above the quotient, as two bounds on its multiple. -/
theorem isCeilDiv_iff_bounds {a q : Int} {n : Nat} (hn : 0 < n) :
    IsCeilDiv a n q ↔ a ≤ q * n ∧ q * n - a < n := by
  have hn' : (0 : Int) < n := by exact_mod_cast hn
  refine and_congr_right fun _ => ⟨fun hleast => ?_, fun hlt r hr => ?_⟩
  · by_contra hge
    have hpred : a ≤ (q - 1) * n := by linarith [sub_one_mul q (n : Int)]
    linarith [hleast (q - 1) hpred]
  · have hmul : (q - 1) * (n : Int) < r * n := by linarith [sub_one_mul q (n : Int)]
    linarith [Int.add_one_le_of_lt (lt_of_mul_lt_mul_right hmul hn'.le)]

theorem isCeilDiv_sysLatency {n : Nat} (hn : 0 < n) (a : Int) : IsCeilDiv a n (sysLatency n a) := by
  have hn' : (0 : Int) < n := by exact_mod_cast hn
  rw [isCeilDiv_iff_bounds hn, sysLatency, if_neg hn.ne', neg_mul]
  have hlower := Int.ediv_mul_le (-a) hn'.ne'
  have hupper := Int.lt_ediv_add_one_mul_self (-a) hn'
  constructor <;> linarith

theorem eq_sysLatency_of_isCeilDiv {n : Nat} (hn : 0 < n) {a q : Int} (h : IsCeilDiv a n q) :
    q = sysLatency n a :=
  have hs := isCeilDiv_sysLatency hn a
  le_antisymm (h.2 _ hs.1) (hs.2 _ h.1)

/-- The data phase of a latency and its ceiling is a phase number (40_construction.md R106). -/
theorem dataPhase_bounds {n : Nat} (hn : 0 < n) {a q : Int} (h : IsCeilDiv a n q) :
    0 ≤ q * n - a ∧ q * n - a < n := by
  obtain ⟨hle, hlt⟩ := (isCeilDiv_iff_bounds hn).mp h
  exact ⟨sub_nonneg.mpr hle, hlt⟩

theorem sysLatency_pos {n : Nat} (hn : 0 < n) {a : Int} (ha : 1 ≤ a) : 1 ≤ sysLatency n a := by
  obtain ⟨hle, -⟩ := isCeilDiv_sysLatency hn a
  exact Int.add_one_le_of_lt (pos_of_mul_pos_left (by linarith) (Int.natCast_nonneg n))

theorem isMod_modN {n : Nat} (hn : 0 < n) (x : Int) : IsMod x n (modN n x) := by
  have hn' : (0 : Int) < n := by exact_mod_cast hn
  rw [modN, if_neg hn.ne']
  exact ⟨Int.emod_nonneg x hn'.ne', Int.emod_lt_of_pos x hn', Int.dvd_self_sub_emod⟩

/-- `-1 mod N = N - 1`: data phase 0 puts the command on the last phase (40_construction.md R106). -/
theorem eq_pred_of_isMod_neg_one {n : Nat} {r : Int} (h : IsMod (-1) n r) : r = n - 1 := by
  obtain ⟨hnonneg, hlt, hdvd⟩ := h
  have hdvd' : (n : Int) ∣ r + 1 := by
    rw [← Int.dvd_neg]
    convert hdvd using 1
    ring
  have hle := Int.le_of_dvd (by linarith) hdvd'
  linarith [Int.add_one_le_of_lt hlt]

/-- Settles O3: the negated floor of the negated quotient is the ceiling. -/
theorem sysLatencyIsTheCeiling : Obligations.SysLatencyIsTheCeiling :=
  ⟨fun v => Laws.RoundTrip.sysLatency v rfl,
    fun s => ⟨sysLatency s.args.n s.args.latency, rfl, fun hn => isCeilDiv_sysLatency hn _⟩⟩

/-- Settles O4: the command phase is a remainder, and the ceiling bounds the data phase. -/
theorem phaseAssignPlacesCommandOnePhaseEarlier : Obligations.PhaseAssignPlacesCommandOnePhaseEarlier := by
  refine ⟨fun v => Laws.RoundTrip.phaseAssign v rfl, fun s => ⟨_, rfl, fun hn => isMod_modN hn _,
    fun hn _ hceil => ?_, fun hn hzero => ?_⟩⟩
  · obtain ⟨hnonneg, hlt⟩ := dataPhase_bounds hn hceil
    exact ⟨hnonneg, Int.le_sub_one_of_lt hlt⟩
  · rw [hzero]
    exact eq_pred_of_isMod_neg_one (isMod_modN hn _)

end Sys2Proof.Machine
end

/-! ## `BUILD_SETTINGS` (40_construction.md R107 to R110) -/

section
namespace Sys2Proof.Machine

theorem exec_buildSettings_of_error {s : State} {p : Params} {e : ConstructError} (hs : s.args.params = p)
    (hp : paramsLegal p = true) (h : buildSettings p = .error e) :
    exec .buildSettings s = .next (raiseConstruct s e) := by
  subst hs
  simp only [exec, execBuildSettings, hp, h, if_true]

theorem exec_buildSettings_of_ok {s : State} {p : Params} {k : PhySettings} (hs : s.args.params = p)
    (hp : paramsLegal p = true) (h : buildSettings p = .ok k) :
    exec .buildSettings s = .next (startInstance s p k) := by
  subst hs
  simp only [exec, execBuildSettings, hp, h, if_true]

theorem paramsLegal_inv {p : Params} (h : paramsLegal p = true) :
    ratioPositive p.fSys = true ∧ tableLegal p.clCwlTable = true := by
  simp only [paramsLegal, Bool.and_eq_true] at h
  tauto

theorem phaseOk_iff {p : Params} : phaseOk p = true ↔ (p.family, p.phases) ∉ p.phaseBad := by
  simp [phaseOk]

/-! The steps of 40_construction.md R108 before the latencies are planned -/

section
variable {p : Params}

theorem buildSettings_of_phase_count (h2 : p.phases ≠ 2) (h4 : p.phases ≠ 4) :
    buildSettings p = .error (.unsupportedPhaseCount p.phases none) := by
  rw [buildSettings, if_pos ⟨h2, h4⟩]

theorem buildSettings_of_unknown_family (hn : p.phases = 2 ∨ p.phases = 4)
    (hbins : binsOf p.clCwlTable p.family = none) :
    buildSettings p = .error (.unsupportedConfiguration p.family none) := by
  rw [buildSettings, if_neg (by omega), if_pos (by rw [hbins]; rfl)]

theorem buildSettings_of_phaseBad (hn : p.phases = 2 ∨ p.phases = 4)
    (hbins : (binsOf p.clCwlTable p.family).isSome = true) (hbad : (p.family, p.phases) ∈ p.phaseBad) :
    buildSettings p = .error (.unsupportedPhaseCount p.phases (some p.family)) := by
  have hok : phaseOk p = false := by simp [phaseOk, hbad]
  rw [buildSettings, if_neg (by omega), if_neg (by simpa [Option.isSome_iff_ne_none] using hbins), if_pos hok]

/-- Past step 3, the result of `RESOLVE` decides. -/
theorem buildSettings_of_checked (hn : p.phases = 2 ∨ p.phases = 4)
    (hbins : (binsOf p.clCwlTable p.family).isSome = true) (hgood : (p.family, p.phases) ∉ p.phaseBad) :
    buildSettings p = (resolve p.clCwlTable p.family (ioPeriod p.phases p.fSys)).bind
      fun r => planLatencies p r.1 r.2 := by
  rw [buildSettings, if_neg (by omega), if_neg (by simpa [Option.isSome_iff_ne_none] using hbins),
    if_neg (by simp [phaseOk_iff.mpr hgood])]
  cases resolve p.clCwlTable p.family (ioPeriod p.phases p.fSys) <;> rfl

theorem isSome_binsOf_of_resolve {table : List (Family × List SpeedBin)} {family : Family} {period : Ratio}
    {r : Int × Int} (h : resolve table family period = .ok r) : (binsOf table family).isSome = true := by
  cases hbins : binsOf table family with
  | none => simp [binsOf_isNone_resolve hbins] at h
  | some bins => rfl

theorem buildSettings_of_resolved (hn : p.phases = 2 ∨ p.phases = 4)
    (hgood : (p.family, p.phases) ∉ p.phaseBad) {cl cwl : Int}
    (hr : resolve p.clCwlTable p.family (ioPeriod p.phases p.fSys) = .ok (cl, cwl)) :
    buildSettings p = planLatencies p cl cwl := by
  rw [buildSettings_of_checked hn (isSome_binsOf_of_resolve hr) hgood, hr]
  rfl

/-- A construction that succeeds reaches the plan of 40_construction.md R108 steps 5 to 9. -/
theorem buildSettings_ok_inv {k : PhySettings} (h : buildSettings p = .ok k) :
    ∃ cl cwl, planLatencies p cl cwl = .ok k := by
  have hn := phases_of_buildSettings h
  cases hbins : binsOf p.clCwlTable p.family with
  | none => simp [buildSettings_of_unknown_family hn hbins] at h
  | some bins =>
    have hsome : (binsOf p.clCwlTable p.family).isSome = true := by rw [hbins]; rfl
    by_cases hbad : (p.family, p.phases) ∈ p.phaseBad
    · simp [buildSettings_of_phaseBad hn hsome hbad] at h
    · cases hr : resolve p.clCwlTable p.family (ioPeriod p.phases p.fSys) with
      | error e =>
        rw [buildSettings_of_checked hn hsome hbad, hr] at h
        cases h
      | ok r => exact ⟨r.1, r.2, by rw [← buildSettings_of_resolved hn hbad hr, h]⟩

end

theorem ratioPositive_ioPeriod {n : Nat} {fSys : Ratio} (hn : 0 < n) (hf : ratioPositive fSys = true) :
    ratioPositive (ioPeriod n fSys) = true := by
  obtain ⟨hnum, hden⟩ := ratioPositive_iff.mp hf
  exact ratioPositive_iff.mpr ⟨hden, Nat.mul_pos hn hnum⟩

/-- The I/O clock period is `1 / (N * F_SYS)` (40_construction.md R102). -/
theorem ratioValue_ioPeriod (n : Nat) (fSys : Ratio) :
    ratioValue (ioPeriod n fSys) = (n * ratioValue fSys)⁻¹ := by
  simp only [ratioValue, ioPeriod, Nat.cast_mul]
  rw [← mul_div_assoc, inv_div]

/-- An entry serves the I/O clock unless its data rate is below two transfers per period. -/
theorem binServes_ioPeriod_eq_false {n : Nat} {fSys : Ratio} {b : SpeedBin} (hn : 0 < n)
    (hf : ratioPositive fSys = true) (hb : ratioPositive b.f = true)
    (hlt : ratioValue b.f < 2 * (n * ratioValue fSys)) : binServes (ioPeriod n fSys) b = false := by
  obtain ⟨hnum, hden⟩ := ratioPositive_iff.mp hf
  have hrate : 0 < (n : ℚ) * ratioValue fSys := by unfold ratioValue; positivity
  rw [binServes_eq_false_iff (ratioPositive_ioPeriod hn hf) hb, ratioValue_ioPeriod,
    inv_mul_lt_iff₀ hrate]
  linarith

/-- Settles O5: one clause for each of the first four steps. -/
theorem buildSettingsReportsFirstFailingStep : Obligations.BuildSettingsReportsFirstFailingStep := by
  intro s p hs hp
  obtain ⟨hf, ht⟩ := paramsLegal_inv hp
  refine ⟨fun h2 h4 => ?_, fun hn hunknown => ?_, fun hn hknown hbad => ?_,
    fun bins hn hbins hgood hnone => ?_⟩
  · exact exec_buildSettings_of_error hs hp (buildSettings_of_phase_count h2 h4)
  · exact exec_buildSettings_of_error hs hp (buildSettings_of_unknown_family hn hunknown)
  · exact exec_buildSettings_of_error hs hp (buildSettings_of_phaseBad hn hknown hbad)
  · have hpos := ratioPositive_of_tableLegal ht hbins
    have hresolve := resolve_eq_error hbins fun b hb =>
      binServes_ioPeriod_eq_false (show 0 < p.phases by omega) hf (hpos b hb) (hnone b hb)
    refine exec_buildSettings_of_error hs hp ?_
    rw [buildSettings_of_checked hn (by rw [hbins]; rfl) hgood, hresolve]
    rfl

/-! Steps 5 to 9 of 40_construction.md R108 -/

/-- No clause of 40_construction.md R108 step 8 fires. The phase numbers are not named: they are in range
for every latency (`phaseInRange_cmd`, `phaseInRange_data`). -/
structure LatencyFits (p : Params) (cl cwl : Int) : Prop where
  cl_pos : 1 ≤ cl
  cwl_pos : 1 ≤ cwl
  read : 1 < readLatencyOf p (sysLatency p.phases cl)
  dqs : ∀ d, p.dqsSysLatency = some d → 1 ≤ d ∧ (d : Int) ≤ sysLatency p.phases cwl

/-- The constants of 40_construction.md R108 step 9. -/
def plannedSettings (p : Params) (cl cwl : Int) : PhySettings :=
  let rd := phaseAssign p.phases (sysLatency p.phases cl) cl
  let wr := phaseAssign p.phases (sysLatency p.phases cwl) cwl
  { family := p.family, dfiDatabits := 2 * p.dataBits, nRanks := p.nRanks, nPhases := p.phases,
    rdcmdphase := rd.1.toNat, rdphase := rd.2.toNat, wrcmdphase := wr.1.toNat, wrphase := wr.2.toNat,
    cl := cl.toNat, cwl := cwl.toNat, readLatency := (readLatencyOf p (sysLatency p.phases cl)).toNat,
    writeLatency := (sysLatency p.phases cwl).toNat }

theorem phaseInRange_iff {n : Nat} {x : Int} : phaseInRange n x = true ↔ 0 ≤ x ∧ x < n := by
  simp [phaseInRange]

theorem phaseInRange_cmd {n : Nat} (hn : 0 < n) (sys latency : Int) :
    phaseInRange n (phaseAssign n sys latency).1 = true := by
  obtain ⟨hnonneg, hlt, -⟩ := isMod_modN hn (sys * n - latency - 1)
  exact phaseInRange_iff.mpr ⟨hnonneg, hlt⟩

theorem phaseInRange_data {n : Nat} (hn : 0 < n) (latency : Int) :
    phaseInRange n (phaseAssign n (sysLatency n latency) latency).2 = true :=
  phaseInRange_iff.mpr (dataPhase_bounds hn (isCeilDiv_sysLatency hn latency))

theorem toNat_lt_of_phaseInRange {n : Nat} {x : Int} (h : phaseInRange n x = true) : x.toNat < n := by
  obtain ⟨hnonneg, hlt⟩ := phaseInRange_iff.mp h
  omega

theorem toNat_of_phaseInRange {n : Nat} {x : Int} (h : phaseInRange n x = true) : (x.toNat : Int) = x :=
  Int.toNat_of_nonneg (phaseInRange_iff.mp h).1

/-- The default of `DQS_SYS_LATENCY` is always legal, so only a given value can break step 8. -/
theorem dqsSysLatencyOf_legal_iff {p : Params} {writeLatency : Nat} (h : 1 ≤ writeLatency) :
    1 ≤ dqsSysLatencyOf p writeLatency ∧ dqsSysLatencyOf p writeLatency ≤ writeLatency ↔
      ∀ d, p.dqsSysLatency = some d → 1 ≤ d ∧ d ≤ writeLatency := by
  cases hd : p.dqsSysLatency with
  | none => simpa [dqsSysLatencyOf, hd] using h
  | some d => simp [dqsSysLatencyOf, hd]

theorem LatencyFits.dqs_legal {p : Params} {cl cwl : Int} (h : LatencyFits p cl cwl) (hn : 0 < p.phases) :
    1 ≤ dqsSysLatencyOf p (sysLatency p.phases cwl).toNat ∧
      dqsSysLatencyOf p (sysLatency p.phases cwl).toNat ≤ (sysLatency p.phases cwl).toNat := by
  have hwrite := sysLatency_pos hn h.cwl_pos
  refine (dqsSysLatencyOf_legal_iff (by omega)).mpr fun d hd => ?_
  obtain ⟨hpos, hle⟩ := h.dqs d hd
  exact ⟨hpos, by omega⟩

/-- All that steps 5 to 9 of 40_construction.md R108 can do. -/
theorem planLatencies_cases {p : Params} (hn : 0 < p.phases) (cl cwl : Int) :
    (LatencyFits p cl cwl ∧ planLatencies p cl cwl = .ok (plannedSettings p cl cwl)) ∨
    (¬ LatencyFits p cl cwl ∧ planLatencies p cl cwl = .error .invalidLatencyConfiguration) := by
  simp only [planLatencies, phaseInRange_cmd hn, phaseInRange_data hn, reduceCtorEq, false_or]
  split
  next hfires =>
    refine .inr ⟨fun hfits => ?_, rfl⟩
    have hcl := hfits.cl_pos
    have hcwl := hfits.cwl_pos
    have hread := hfits.read
    have hwrite := sysLatency_pos hn hcwl
    obtain ⟨hdqs, hdqs'⟩ := hfits.dqs_legal hn
    omega
  next hquiet =>
    simp only [not_or, not_lt, not_le] at hquiet
    obtain ⟨hcl, hcwl, hread, hwrite, hdqs, hdqs'⟩ := hquiet
    have hlegal := (dqsSysLatencyOf_legal_iff (p := p) (writeLatency := (sysLatency p.phases cwl).toNat)
      (by omega)).mp ⟨hdqs, by omega⟩
    refine .inl ⟨⟨hcl, hcwl, hread, fun d hd => ?_⟩, rfl⟩
    obtain ⟨hpos, hle⟩ := hlegal d hd
    exact ⟨hpos, by omega⟩

theorem planLatencies_of_fits {p : Params} {cl cwl : Int} (hn : 0 < p.phases) (h : LatencyFits p cl cwl) :
    planLatencies p cl cwl = .ok (plannedSettings p cl cwl) :=
  ((planLatencies_cases hn cl cwl).resolve_right fun hr => hr.1 h).2

theorem planLatencies_of_not_fits {p : Params} {cl cwl : Int} (hn : 0 < p.phases)
    (h : ¬ LatencyFits p cl cwl) : planLatencies p cl cwl = .error .invalidLatencyConfiguration :=
  ((planLatencies_cases hn cl cwl).resolve_left fun hl => h hl.1).2

/-- The clauses of step 8 as the inputs that break them. -/
theorem not_latencyFits {p : Params} {cl cwl : Int}
    (h : cl < 1 ∨ cwl < 1 ∨ readLatencyOf p (sysLatency p.phases cl) ≤ 1 ∨
      ∃ d, p.dqsSysLatency = some d ∧ (d < 1 ∨ sysLatency p.phases cwl < (d : Int))) :
    ¬ LatencyFits p cl cwl := by
  rintro ⟨hcl, hcwl, hread, hdqs⟩
  rcases h with h | h | h | ⟨d, hd, hbad⟩
  · omega
  · omega
  · omega
  · obtain ⟨hpos, hle⟩ := hdqs d hd
    omega

/-- The phases of the settings for one latency: what 40_construction.md R106 answers, as natural numbers. -/
theorem phaseAssign_toNat {n : Nat} (hn : 0 < n) (latency : Int) :
    (((phaseAssign n (sysLatency n latency) latency).2.toNat : Nat) : Int) =
        sysLatency n latency * n - latency ∧
      IsMod (((phaseAssign n (sysLatency n latency) latency).2.toNat : Int) - 1) n
        ((phaseAssign n (sysLatency n latency) latency).1.toNat : Int) := by
  have hdata := toNat_of_phaseInRange (phaseInRange_data hn latency)
  rw [hdata, toNat_of_phaseInRange (phaseInRange_cmd hn _ _)]
  exact ⟨rfl, isMod_modN hn _⟩

/-- The scenario of 40_construction.md R110: four phases at 100 MHz are 800 MT/s. -/
theorem resolve_ioPeriod_attested {table : List (Family × List SpeedBin)} {fSys : Ratio}
    (ht : tableLegal table = true) (hf : ratioPositive fSys = true) (h100 : ratioValue fSys = 100000000) :
    resolve table .ddr3 (ioPeriod 4 fSys) = .ok (6, 5) := by
  have hperiod := ratioPositive_ioPeriod (n := 4) (by omega) hf
  refine resolve_attested ht hperiod (num_mul_eq_den_of_ratioValue hperiod ?_)
  rw [ratioValue_ioPeriod, h100]
  norm_num

/-- Settles O6: the latencies fit or a clause of step 8 fires; the scenario of R110 fixes its own. -/
theorem buildSettingsPlansLatencies : Obligations.BuildSettingsPlansLatencies := by
  intro s p cl cwl clSys cwlSys hs hp hn hgood hr hcl hcwl
  obtain ⟨hf, ht⟩ := paramsLegal_inv hp
  have hpos : 0 < p.phases := by omega
  have hplan := buildSettings_of_resolved hn hgood hr
  obtain rfl := eq_sysLatency_of_isCeilDiv hpos hcl
  obtain rfl := eq_sysLatency_of_isCeilDiv hpos hcwl
  refine ⟨fun hfires => ?_, fun hcl1 hcwl1 hread hdqs => ?_, fun hfam hfour h100 => ?_⟩
  · exact exec_buildSettings_of_error hs hp
      (hplan.trans (planLatencies_of_not_fits hpos (not_latencyFits hfires)))
  · have hfits : LatencyFits p cl cwl := ⟨hcl1, hcwl1, hread, hdqs⟩
    obtain ⟨hrd, hrdcmd⟩ := phaseAssign_toNat hpos cl
    obtain ⟨hwr, hwrcmd⟩ := phaseAssign_toNat hpos cwl
    have hwrite := sysLatency_pos hpos hcwl1
    exact ⟨plannedSettings p cl cwl,
      exec_buildSettings_of_ok hs hp (hplan.trans (planLatencies_of_fits hpos hfits)),
      rfl, rfl, rfl, rfl, Int.toNat_of_nonneg (by omega), Int.toNat_of_nonneg (by omega),
      hrd, hwr, hrdcmd, hwrcmd, Int.toNat_of_nonneg (zero_le_one.trans hfits.read.le),
      Int.toNat_of_nonneg (by omega)⟩
  · rw [hfam, hfour, resolve_ioPeriod_attested ht hf h100] at hr
    obtain ⟨rfl, rfl⟩ := Prod.mk.inj (Except.ok.inj hr)
    rw [hfour]
    decide

/-- Settles O7: a construction that succeeds has latencies that fit, and every phase number is in range. -/
theorem builtSettingsAreInRange : Obligations.BuiltSettingsAreInRange := by
  intro p k h
  have hpos : 0 < p.phases := by
    have hn := phases_of_buildSettings h
    omega
  obtain ⟨cl, cwl, hplan⟩ := buildSettings_ok_inv h
  rcases planLatencies_cases hpos cl cwl with ⟨hfits, hok⟩ | ⟨-, herror⟩
  · obtain rfl : plannedSettings p cl cwl = k := Except.ok.inj (hok.symm.trans hplan)
    have hread : 2 ≤ (readLatencyOf p (sysLatency p.phases cl)).toNat := by
      have := hfits.read
      omega
    have hwrite : 1 ≤ (sysLatency p.phases cwl).toNat := by
      have := sysLatency_pos hpos hfits.cwl_pos
      omega
    exact ⟨toNat_lt_of_phaseInRange (phaseInRange_data hpos cl),
      toNat_lt_of_phaseInRange (phaseInRange_cmd hpos _ cl),
      toNat_lt_of_phaseInRange (phaseInRange_data hpos cwl),
      toNat_lt_of_phaseInRange (phaseInRange_cmd hpos _ cwl), hread, hwrite, hfits.dqs_legal hpos⟩
  · rw [herror] at hplan
    cases hplan

end Sys2Proof.Machine
end

/-! ## Serial words and pins (41_serdes.md R121 to R126, R130) -/

section
namespace Sys2Proof.Machine

theorem wordsWf_map_range {n count : Nat} {f : Nat → Bits} (h : ∀ k, (f k).length = 2 * n) :
    WordsWf n count ((List.range count).map f) := by
  refine ⟨by simp, fun w hw => ?_⟩
  obtain ⟨k, -, rfl⟩ := List.mem_map.mp hw
  exact h k

theorem wordsWf_replicate {n count : Nat} {w : Bits} (h : w.length = 2 * n) :
    WordsWf n count (List.replicate count w) :=
  ⟨List.length_replicate, fun _ hv => (List.eq_of_mem_replicate hv) ▸ h⟩

theorem getD_map_range {count k : Nat} (h : k < count) (f : Nat → Bits) :
    ((List.range count).map f).getD k [] = f k := by
  simp [List.getD, h]

/-! Command and address pins -/

theorem heldWord_length (n : Nat) (i : TickInput) (field : PhaseIn → Bool) :
    (heldWord n i field).length = 2 * n := wordOf_length _ _

theorem bitAt_heldWord {n p j : Nat} (hp : p < n) (hj : j = 2 * p ∨ j = 2 * p + 1) (i : TickInput)
    (field : PhaseIn → Bool) : bitAt (heldWord n i field) j = field (phaseAt i p) := by
  have hphase : j / 2 = p := by omega
  rw [heldWord, bitAt_wordOf_of_lt _ (by omega), hphase]

theorem heldWords_wf (n width : Nat) (i : TickInput) (field : PhaseIn → Bits) :
    WordsWf n width (heldWords n width i field) :=
  wordsWf_map_range fun _ => heldWord_length _ _ _

theorem bitAt_heldWords {n width k p j : Nat} (hk : k < width) (hp : p < n)
    (hj : j = 2 * p ∨ j = 2 * p + 1) (i : TickInput) (field : PhaseIn → Bits) :
    bitAt ((heldWords n width i field).getD k []) j = bitAt (field (phaseAt i p)) k := by
  rw [heldWords, getD_map_range hk]
  exact bitAt_heldWord hp hj i _

theorem cmdWordsOf_wf (p : Params) (i : TickInput) : CmdWf p (cmdWordsOf p i) where
  a := heldWords_wf _ _ _ _
  ba := heldWords_wf _ _ _ _
  ras := wordsWf_replicate (count := 1) (heldWord_length _ _ _)
  cas := wordsWf_replicate (count := 1) (heldWord_length _ _ _)
  we := wordsWf_replicate (count := 1) (heldWord_length _ _ _)
  cke := heldWords_wf _ _ _ _
  odt := heldWords_wf _ _ _ _
  cs := heldWords_wf _ _ _ _
  reset := wordsWf_replicate (heldWord_length _ _ _)

theorem exec_serCmd_live {s : State} {x : Phy} (h : s.block = .live x) :
    exec .serCmd s = .next (s.withSig { s.sig with cmd := cmdWordsOf x.params s.inp }) :=
  onLive_live h _

/-- Settles O27: every command word is a `heldWord` of its field. -/
theorem commandPinsHoldThePhaseBit : Obligations.CommandPinsHoldThePhaseBit := by
  intro s x hx
  refine ⟨_, exec_serCmd_live hx, cmdWordsOf_wf _ _, fun p hp j hj => ?_⟩
  have hword (field : PhaseIn → Bool) := bitAt_heldWord hp hj s.inp field
  have hgroup (width : Nat) (field : PhaseIn → Bits) (k : Nat) (hk : k < width) :=
    bitAt_heldWords hk hp hj s.inp field
  refine ⟨hgroup _ _, hgroup _ _, hword _, hword _, hword _, hgroup _ _, hgroup _ _,
    fun hcs => ?_, fun hreset => ?_⟩
  · have hpins : optionalPins x.params.hasCs x.params.nRanks = x.params.nRanks := if_pos hcs
    rw [cmdWordsOf, hpins]
    exact hgroup _ _
  · have hpins : optionalPins x.params.hasReset 1 = 1 := if_pos hreset
    rw [cmdWordsOf, hpins]
    exact hword _

/-! Data and mask pins -/

theorem ddrWord_length (n width : Nat) (i : TickInput) (field : PhaseIn → Bits) (k : Nat) :
    (ddrWord n width i field k).length = 2 * n := wordOf_length _ _

theorem bitAt_ddrWord_even {n p : Nat} (hp : p < n) (width : Nat) (i : TickInput)
    (field : PhaseIn → Bits) (k : Nat) :
    bitAt (ddrWord n width i field k) (2 * p) = bitAt (field (phaseAt i p)) k := by
  have hphase : 2 * p / 2 = p := by omega
  rw [ddrWord, bitAt_wordOf_of_lt _ (by omega), hphase, if_pos (by omega)]

theorem bitAt_ddrWord_odd {n p : Nat} (hp : p < n) (width : Nat) (i : TickInput)
    (field : PhaseIn → Bits) (k : Nat) :
    bitAt (ddrWord n width i field k) (2 * p + 1) = bitAt (field (phaseAt i p)) (width + k) := by
  have hphase : (2 * p + 1) / 2 = p := by omega
  rw [ddrWord, bitAt_wordOf_of_lt _ (by omega), hphase, if_neg (by omega)]

theorem dqWordsOf_getD {p : Params} {pin : Nat} (h : pin < p.dataBits) (i : TickInput) :
    (dqWordsOf p i).getD pin [] = ddrWord p.phases p.dataBits i PhaseIn.wrdata pin :=
  getD_map_range h _

theorem dmWordsOf_getD {p : Params} {lane : Nat} (h : lane < lanesOf p) (i : TickInput) :
    (dmWordsOf p i).getD lane [] = ddrWord p.phases (lanesOf p) i PhaseIn.wrdataMask lane :=
  getD_map_range h _

theorem dqWordsOf_wf (p : Params) (i : TickInput) : WordsWf p.phases p.dataBits (dqWordsOf p i) :=
  wordsWf_map_range fun _ => ddrWord_length _ _ _ _ _

theorem dmWordsOf_wf (p : Params) (i : TickInput) : WordsWf p.phases (lanesOf p) (dmWordsOf p i) :=
  wordsWf_map_range fun _ => ddrWord_length _ _ _ _ _

theorem exec_serDq_live {s : State} {x : Phy} (h : s.block = .live x) :
    exec .serDq s = .next (s.withSig { s.sig with dq := dqWordsOf x.params s.inp }) :=
  onLive_live h _

theorem exec_serDm_live {s : State} {x : Phy} (h : s.block = .live x) :
    exec .serDm s = .next (s.withSig { s.sig with dm := dmWordsOf x.params s.inp }) :=
  onLive_live h _

/-- Settles O28: every data and mask word is a `ddrWord` of its field. -/
theorem dataAndMaskPinsCarryBothHalves : Obligations.DataAndMaskPinsCarryBothHalves := by
  intro s x hx
  refine ⟨⟨_, exec_serDq_live hx, dqWordsOf_wf _ _, fun p hp pin hpin => ?_⟩,
    ⟨_, exec_serDm_live hx, dmWordsOf_wf _ _, fun p hp lane hlane => ?_⟩⟩
  · rw [dqWordsOf_getD hpin]
    exact ⟨bitAt_ddrWord_even hp .., bitAt_ddrWord_odd hp ..⟩
  · rw [dmWordsOf_getD hlane]
    exact ⟨bitAt_ddrWord_even hp .., bitAt_ddrWord_odd hp ..⟩

/-! Strobe pins -/

theorem patternWidthOk_of_paramsLegal {p : Params} (h : paramsLegal p = true) :
    patternWidthOk p p.dqsPattern = true ∧ patternWidthOk p p.wlevelPattern = true := by
  simp only [paramsLegal, Bool.and_eq_true] at h
  tauto

/-- A pattern constant, given or by default, has the width of a serial word. -/
theorem pattern_length {p : Params} {v : Option Bits} (h : patternWidthOk p v = true)
    (f : Nat → Bool) : (v.getD (wordOf (2 * p.phases) f)).length = 2 * p.phases := by
  cases v with
  | none => exact wordOf_length _ _
  | some w => exact beq_iff_eq.mp h

theorem bitAt_wordOf_false (n j : Nat) : bitAt (wordOf n fun _ => false) j = false := by
  rw [bitAt_wordOf, ite_self]

theorem bitAt_dqsPatternOf_default {p : Params} (h : p.dqsPattern = none) {j : Nat}
    (hj : j < 2 * p.phases) : bitAt (dqsPatternOf p) j = decide (j % 2 = 0) := by
  rw [dqsPatternOf, h, Option.getD_none, bitAt_wordOf_of_lt _ hj, beq_eq_decide]

section
variable {x : Phy} {pre post strobe : Bool}

theorem dqsWordOf_training (hlevel : leveling x = true) (hstrobe : strobe = true) :
    dqsWordOf x pre post strobe = wlevelPatternOf x.params := by
  rw [dqsWordOf, if_pos hlevel, if_pos hstrobe]

theorem dqsWordOf_leveling_quiet (hlevel : leveling x = true) (hstrobe : strobe = false) :
    dqsWordOf x pre post strobe = wordOf (2 * x.params.phases) fun _ => false := by
  rw [dqsWordOf, if_pos hlevel, if_neg (by simp [hstrobe])]

theorem dqsWordOf_window (hlevel : leveling x = false) (hwindow : (pre || post) = true) :
    dqsWordOf x pre post strobe = wordOf (2 * x.params.phases) fun _ => false := by
  rw [dqsWordOf, if_neg (by simp [hlevel]), if_pos hwindow]

theorem dqsWordOf_toggle (hlevel : leveling x = false) (hwindow : (pre || post) = false) :
    dqsWordOf x pre post strobe = dqsPatternOf x.params := by
  rw [dqsWordOf, if_neg (by simp [hlevel]), if_neg (by simp [hwindow])]

end

theorem dqsWordOf_length {x : Phy} (h : paramsLegal x.params = true) (pre post strobe : Bool) :
    (dqsWordOf x pre post strobe).length = 2 * x.params.phases := by
  obtain ⟨htoggle, htraining⟩ := patternWidthOk_of_paramsLegal h
  unfold dqsWordOf
  split_ifs
  · exact pattern_length htraining _
  · exact wordOf_length _ _
  · exact wordOf_length _ _
  · exact pattern_length htoggle _

theorem exec_serDqs_live {s : State} {x : Phy} (h : s.block = .live x) :
    exec .serDqs s = .next (s.withSig
      { s.sig with dqs := dqsWordOf x s.sig.dqsPre s.sig.dqsPost s.sig.strobe }) :=
  onLive_live h _

/-- Settles O29: one equation of `dqsWordOf` for each source. -/
theorem strobeWordHasThreeSources : Obligations.StrobeWordHasThreeSources := by
  intro s x hx inv
  refine ⟨_, exec_serDqs_live hx, dqsWordOf_length inv.legal _ _ _, dqsWordOf_training,
    fun hlevel hstrobe j => ?_, fun hlevel hwindow j => ?_, fun hlevel hwindow =>
      ⟨dqsWordOf_toggle hlevel hwindow, fun hdefault j hj => ?_⟩⟩
  · rw [dqsWordOf_leveling_quiet hlevel hstrobe, bitAt_wordOf_false]
  · rw [dqsWordOf_window hlevel hwindow, bitAt_wordOf_false]
  · rw [dqsWordOf_toggle hlevel hwindow, bitAt_dqsPatternOf_default hdefault hj]

/-! Output enables -/

theorem exec_tristate_live {s : State} {x : Phy} (h : s.block = .live x) :
    exec .tristate s = .next (s.withSig { s.sig with
      drive := driveOf x.params s.sig.cmd s.sig.dq s.sig.dm s.sig.dqs s.sig.oe s.sig.oeDqs }) :=
  onLive_live h _

/-- Settles O30: a bidirectional pin presents its word while its enable is 1 (`presentPin`). -/
theorem tristateFollowsTheEnables : Obligations.TristateFollowsTheEnables := by
  intro s x hx
  refine ⟨_, exec_tristate_live hx, ?_, ?_, rfl, rfl, rfl, rfl, rfl, rfl, rfl, rfl, rfl, rfl⟩
  · exact List.map_map
  · exact List.map_replicate

/-! Read-data words -/

theorem rddataOf_length (p : Params) (aligned : List Bits) : (rddataOf p aligned).length = p.phases := by
  simp [rddataOf]

theorem rddataOf_getD {p : Params} {ph : Nat} (h : ph < p.phases) (aligned : List Bits) :
    (rddataOf p aligned).getD ph [] = rddataWord p aligned ph :=
  getD_map_range h _

theorem rddataWord_length (p : Params) (aligned : List Bits) (ph : Nat) :
    (rddataWord p aligned ph).length = 2 * p.dataBits := wordOf_length _ _

/-- Half `h` of a read-data word holds slot `2p + h` of each pin (20_memory.md R58). -/
theorem bitAt_rddataWord {p : Params} {pin h : Nat} (hpin : pin < p.dataBits) (hh : h < 2)
    (aligned : List Bits) (ph : Nat) :
    bitAt (rddataWord p aligned ph) (h * p.dataBits + pin) =
      bitAt (aligned.getD pin []) (2 * ph + h) := by
  obtain rfl | rfl : h = 0 ∨ h = 1 := by omega
  · rw [Nat.zero_mul, Nat.zero_add, rddataWord, bitAt_wordOf_of_lt _ (by omega), if_pos hpin,
      Nat.add_zero]
  · rw [Nat.one_mul, rddataWord, bitAt_wordOf_of_lt _ (by omega), if_neg (by omega),
      Nat.add_sub_cancel_left]

theorem exec_rdAssemble_live {s : State} {x : Phy} (h : s.block = .live x) :
    exec .rdAssemble s = .next (s.withOut { s.out with rddata := rddataOf x.params s.sig.aligned }) :=
  onLive_live h _

/-- Settles O35: the low half is half 0 of `bitAt_rddataWord`, the high half is half 1. -/
theorem readDataIsAssembledFromTheGroups : Obligations.ReadDataIsAssembledFromTheGroups := by
  intro s x hx
  refine ⟨_, exec_rdAssemble_live hx, rddataOf_length _ _, fun p hp => ?_⟩
  rw [rddataOf_getD hp]
  refine ⟨rddataWord_length _ _ _, fun pin hpin => ⟨?_, ?_⟩⟩
  · simpa using bitAt_rddataWord hpin Nat.zero_lt_two s.sig.aligned p
  · simpa using bitAt_rddataWord hpin Nat.one_lt_two s.sig.aligned p

/-- Settles O36: bit `h * DATABITS + pin` goes to slot `2p + h` of its pin and comes back from it. -/
theorem assemblingSerializedDataGivesItBack : Obligations.AssemblingSerializedDataGivesItBack := by
  intro p i ph hph hlen
  rw [rddataOf_getD hph]
  refine bits_ext (by rw [rddataWord_length, hlen]) fun b hb => ?_
  rw [rddataWord_length] at hb
  rcases lt_or_ge b p.dataBits with hlow | hhigh
  · have hbit := bitAt_rddataWord hlow Nat.zero_lt_two (dqWordsOf p i) ph
    rw [dqWordsOf_getD hlow, Nat.add_zero, bitAt_ddrWord_even hph] at hbit
    simpa using hbit
  · obtain ⟨pin, rfl⟩ := Nat.exists_eq_add_of_le hhigh
    have hpin : pin < p.dataBits := by omega
    have hbit := bitAt_rddataWord hpin Nat.one_lt_two (dqWordsOf p i) ph
    rwa [dqWordsOf_getD hpin, bitAt_ddrWord_odd hph, Nat.one_mul] at hbit

end Sys2Proof.Machine
end

/-! ## The data path through a tick (46_system_tick.md R202 steps 3 to 5) -/

section
namespace Sys2Proof.Machine

/-! What the aligner selects (43_bitslip.md R160, R161) -/

theorem bitAt_append (v w : Bits) (j : Nat) :
    bitAt (v ++ w) j = if j < v.length then bitAt v j else bitAt w (j - v.length) := by
  unfold bitAt
  split_ifs with h
  · exact List.getD_append _ _ _ _ h
  · exact List.getD_append_right _ _ _ _ (not_lt.mp h)

/-- With a rotation below `2N` the index does not wrap: the previous group comes first, then the current
one (46_system_tick.md R207(c)). -/
theorem bitAt_alignWord_alignBuffer {n r k : Nat} {prev current : Bits} (hr : r < 2 * n) (hk : k < 2 * n)
    (hprev : prev.length = 2 * n) : bitAt (alignWord n r (alignBuffer prev current)) k =
      if r + k < 2 * n then bitAt prev (r + k) else bitAt current (r + k - 2 * n) := by
  rw [alignWord, bitAt_wordOf_of_lt _ hk, Nat.mod_eq_of_lt (by omega), alignBuffer, bitAt_append, hprev]

theorem length_getD_of_wordsWf {n count pin : Nat} {words : List Bits} (h : WordsWf n count words)
    (hpin : pin < count) : (words.getD pin []).length = 2 * n := by
  obtain ⟨hcount, hwords⟩ := h
  rw [List.getD_eq_getElem _ _ (hcount ▸ hpin)]
  exact hwords _ (List.getElem_mem _)

/-- Groups that are as wide as the port pass through the aligner's window unchanged. -/
theorem groupsOf_eq_self {p : Params} {group : List Bits} (h : WordsWf p.phases p.dataBits group) :
    groupsOf p group = group := by
  have hcount : group.length = p.dataBits := h.1
  refine List.ext_getElem (by simp [groupsOf, hcount]) fun pin _ hpin => ?_
  have hwidth := length_getD_of_wordsWf h (hcount ▸ hpin)
  rw [List.getD_eq_getElem _ _ hpin] at hwidth
  simp only [groupsOf, List.getElem_map, List.getElem_range, List.getD_eq_getElem _ _ hpin,
    fitBits_eq_self hwidth]

theorem bitAt_selectedOf {x : Phy} {group : List Bits} {pin k : Nat} (hpin : pin < x.params.dataBits)
    (hk : k < 2 * x.params.phases) (hrot : x.rot.getD (pin / 8) 0 < 2 * x.params.phases)
    (hprev : WordsWf x.params.phases x.params.dataBits x.bsPrev)
    (hgroup : WordsWf x.params.phases x.params.dataBits group) :
    bitAt ((selectedOf x group).getD pin []) k =
      if x.rot.getD (pin / 8) 0 + k < 2 * x.params.phases then
        bitAt (x.bsPrev.getD pin []) (x.rot.getD (pin / 8) 0 + k)
      else bitAt (group.getD pin []) (x.rot.getD (pin / 8) 0 + k - 2 * x.params.phases) := by
  rw [selectedOf, getD_map_range hpin, fitBits_eq_self (length_getD_of_wordsWf hgroup hpin),
    bitAt_alignWord_alignBuffer hrot hk (length_getD_of_wordsWf hprev hpin)]

/-! The three parts of a tick: wires, delay lines, registers -/

/-- The operations that compute wires and outputs and leave the block as it is. -/
def leavesBlock : Instr → Bool
  | .rdLaneSelect | .rdWlevelEn | .rdTapBase | .wren | .rden | .wlevelStb | .oe | .oeDqs | .dqsPre
  | .dqsPost | .rdValid | .serCmd | .serDq | .serDm | .serDqs => true
  | _ => false

/-- The operations that write tracking registers and calibration state only. -/
def leavesDataPath : Instr → Bool
  | .wrTrack | .rdTrack | .calNop | .rdlyRst | .rdlyInc | .bsRst | .bsInc | .wdlyRst | .wdlyInc
  | .wlevelEn _ | .sel _ => true
  | _ => false

/-- The operations that move the delay lines, in their order. -/
def dataPathOrder : List Instr := [.tristate, .serPipe, .desDq, .bsAlign, .rdAssemble]

/-- The operations of `TICK` before them. -/
def wireOrder : List Instr :=
  [.oe, .oeDqs, .dqsPre, .dqsPost, .rdValid, .serCmd, .serDq, .serDm, .serDqs]

theorem schedule_eq_three_parts (bus flow cal : List Instr) :
    schedule bus flow cal = (bus ++ flow ++ cal.filter beforeTick ++ wireOrder) ++ (dataPathOrder ++
      ([.wrTrack, .rdTrack] ++ cal.filter fun i => !beforeTick i)) := by
  have htick : tickOrder = wireOrder ++ (dataPathOrder ++ [.wrTrack, .rdTrack]) := rfl
  simp only [schedule, htick, List.append_assoc]

theorem leavesBlock_before {v : Variant} {r : Option (BitVec 4)} {bus : List Instr}
    (hbus : busOps v r = .ok bus) (flow : BitVec 2) (cal : List Instr) :
    ∀ op ∈ bus ++ decodeFlow flow ++ cal.filter beforeTick ++ wireOrder, leavesBlock op = true := by
  intro op hop
  simp only [List.mem_append] at hop
  rcases hop with ((hop | hop) | hop) | hop
  · rcases isBusRead_of_busOps hbus op hop with rfl | rfl | rfl <;> rfl
  · rcases mem_decodeFlow hop with rfl | rfl <;> rfl
  · obtain rfl := of_decide_eq_true (List.mem_filter.mp hop).2
    rfl
  · revert op
    decide

/-- Of the operations of a control word only `WLEVEL_STB` runs before those of `TICK`. -/
theorem leavesDataPath_eq {enable : Bool} {mask : Bits} {op : Instr}
    (h : op ∈ .calNop :: ctlCanon enable mask) : leavesDataPath op = !beforeTick op := by
  revert op
  simp [ctlCanon, leavesDataPath, beforeTick]

theorem leavesDataPath_after {v : Variant} {w : Bits} {cal : List Instr} (hcal : decodeCtl v w = .ok cal) :
    ∀ op ∈ [Instr.wrTrack, .rdTrack] ++ cal.filter fun i => !beforeTick i, leavesDataPath op = true := by
  intro op hop
  simp only [List.mem_append, List.mem_cons, List.not_mem_nil, or_false] at hop
  rcases hop with (rfl | rfl) | hop
  · rfl
  · rfl
  · obtain ⟨hmem, hafter⟩ := List.mem_filter.mp hop
    rw [leavesDataPath_eq (decodeCtl_subset hcal hmem), hafter]

theorem exec_leavesBlock {i : Instr} {s t : State} (hi : leavesBlock i = true) (h : exec i s = .next t) :
    t.block = s.block := by
  cases i with
  | rdLaneSelect | rdWlevelEn | rdTapBase =>
    have hbus : (t.withBus none none).block = (s.withBus none none).block :=
      congrArg State.block (exec_busRead_withBus (by simp [IsBusRead]) h none none)
    exact hbus
  | wren | rden | oe | oeDqs | dqsPre | dqsPost | rdValid | serCmd | serDq | serDm | serDqs =>
    obtain ⟨x, -, hx⟩ := onLive_next h
    cases hx
    rfl
  | wlevelStb =>
    obtain ⟨x, -, hx⟩ := onLive_next h
    obtain ⟨-, ht⟩ := ifPresent_next hx
    cases ht
    rfl
  | _ => cases hi

/-- What a tick with the inputs `i` on the block `x` leaves in the delay lines of the block `y`, on the wires
between them and on the outputs of the state `t` (10_state.md R34 to R37, 41_serdes.md R127 to R130,
43_bitslip.md R161). -/
structure DataTick (x : Phy) (i : TickInput) (t : State) (y : Phy) : Prop where
  serPipe : y.serPipe = shiftIn t.sig.drive x.serPipe
  pads : t.out.pads = padsOf (shiftOut t.sig.drive x.serPipe)
  desPipe : y.desPipe = shiftIn (sampledOf x.params i) x.desPipe
  group : t.sig.group = shiftOut (sampledOf x.params i) x.desPipe
  bsPrev : y.bsPrev = groupsOf x.params t.sig.group
  bsPipe : y.bsPipe = shiftIn (selectedOf x t.sig.group) x.bsPipe
  rddata : t.out.rddata = rddataOf x.params (shiftOut (selectedOf x t.sig.group) x.bsPipe)

theorem exec_bsAlign_live {s : State} {x : Phy} (h : s.block = .live x) :
    exec .bsAlign s =
      .next ((s.withPhy (pushAlign x (groupsOf x.params s.sig.group) (selectedOf x s.sig.group))).withSig
        { s.sig with aligned := shiftOut (selectedOf x s.sig.group) x.bsPipe }) :=
  onLive_live h _

theorem runOps_dataPathOrder {s t : State} {x : Phy} (hx : s.block = .live x)
    (h : runOps dataPathOrder s = .next t) : ∃ y, t.block = .live y ∧ DataTick x s.inp t y := by
  obtain ⟨_, htristate, h⟩ := runOps_cons_inv h
  cases htristate.symm.trans (exec_tristate_live hx)
  obtain ⟨_, hser, h⟩ := runOps_cons_inv h
  cases hser.symm.trans (exec_serPipe_live (x := x) hx)
  obtain ⟨_, hdes, h⟩ := runOps_cons_inv h
  cases hdes.symm.trans (exec_desDq_live rfl)
  obtain ⟨_, halign, h⟩ := runOps_cons_inv h
  cases halign.symm.trans (exec_bsAlign_live rfl)
  obtain ⟨_, hassemble, h⟩ := runOps_cons_inv h
  cases hassemble.symm.trans (exec_rdAssemble_live rfl)
  cases h
  exact ⟨_, rfl, rfl, rfl, rfl, rfl, rfl, rfl, rfl⟩

theorem exec_leavesDataPath {x : Phy} {input : TickInput} {i : Instr} {s t : State}
    (hi : leavesDataPath i = true) (hs : ∃ y, s.block = .live y ∧ DataTick x input s y)
    (h : exec i s = .next t) : ∃ y, t.block = .live y ∧ DataTick x input t y := by
  obtain ⟨y, hy, hdata⟩ := hs
  cases i with
  | calNop =>
    cases onLive_next_of_live hy h
    exact ⟨y, hy, hdata⟩
  | wrTrack | rdTrack | rdlyRst | rdlyInc | bsRst | bsInc | sel wdata =>
    cases onLive_next_of_live hy h
    exact ⟨_, rfl, { hdata with }⟩
  | wdlyRst | wdlyInc | wlevelEn wdata =>
    obtain ⟨-, ht⟩ := ifPresent_next (onLive_next_of_live hy h)
    cases ht
    exact ⟨_, rfl, { hdata with }⟩
  | _ => cases hi

/-- All that a completed tick does to the data path: before the delay lines move the block is that of the
pre-state, and after that nothing reaches them. -/
theorem runTick_dataTick {s t : State} {x y : Phy} {i : TickInput} (hx : s.block = .live x)
    (h : runTick s i = .next t) (hy : t.block = .live y) : DataTick x i t y := by
  obtain ⟨x', ops, u, hx', hops, hrun, rfl⟩ := runTick_next h
  cases hx.symm.trans hx'
  obtain ⟨bus, cal, hcal, hbus, rfl⟩ := decodeTick_ok hops
  have hconstruct := decodeTick_not_isConstruct hops
  rw [schedule_eq_three_parts] at hrun hconstruct
  obtain ⟨before, hbefore, hrest⟩ := runOps_append_inv hrun
  have hwires := leavesBlock_before hbus (flowWord x i) cal
  have hblock : before.block = .live x :=
    runOps_foldl (R := fun v (_ : Unit) => v.block = .live x) (effect := fun _ _ => ())
      (fun hop hv hexec => (exec_leavesBlock hop hexec).trans hv) hwires (s := beginTick s i) (a := ()) hx
      hbefore
  have hinp : before.inp = i :=
    (runOps_frame (s := beginTick s i) (fun op hop => hconstruct op (List.mem_append_left _ hop)) hx
      hbefore).inp
  obtain ⟨moved, hmoved, hafter⟩ := runOps_append_inv hrest
  have hdata := runOps_dataPathOrder hblock hmoved
  rw [hinp] at hdata
  obtain ⟨y', hy', hdata'⟩ :=
    runOps_foldl (R := fun v (_ : Unit) => ∃ y, v.block = .live y ∧ DataTick x i v y)
      (effect := fun _ _ => ()) exec_leavesDataPath (leavesDataPath_after hcal) (a := ()) hdata hafter
  cases hy'.symm.trans hy
  exact { hdata' with }

end Sys2Proof.Machine
end

/-! ## Runs of several ticks: delay lines, pads and read data (41_serdes.md R127, R131) -/

section
namespace Sys2Proof.Machine

/-! Delay lines over time -/

theorem cons_getElem?_length_eq_shiftOut {α : Type} (e : α) (line : List α) :
    (e :: line)[line.length]? = some (shiftOut e line) := by
  rw [← shiftIn_append_shiftOut e line, ← shiftIn_length e line, List.getElem?_concat_length]

section
variable {α : Type} {line : ℕ → List α} {e : ℕ → α} {d n : ℕ}

theorem delayLine_length (hd : (line 0).length = d) (h : ∀ k < n, line (k + 1) = shiftIn (e k) (line k)) :
    (line n).length = d := by
  induction n with
  | zero => exact hd
  | succ n ih =>
    rw [h n n.lt_succ_self, shiftIn_length, ih fun k hk => h k (hk.trans n.lt_succ_self)]

/-- Entry `j` of a delay line of length `d`, with the entering one as entry 0: what entered `j` ticks before,
or a part of the line at the start. -/
theorem delayLine_getElem? (hd : (line 0).length = d)
    (h : ∀ k < n, line (k + 1) = shiftIn (e k) (line k)) {j : ℕ} (hj : j ≤ d) :
    (e n :: line n)[j]? = if j ≤ n then some (e (n - j)) else (line 0)[j - n - 1]? := by
  induction n generalizing j with
  | zero => cases j <;> simp
  | succ n ih =>
    have hbefore : ∀ k < n, line (k + 1) = shiftIn (e k) (line k) :=
      fun k hk => h k (hk.trans n.lt_succ_self)
    cases j with
    | zero => simp
    | succ j =>
      rw [List.getElem?_cons_succ, h n n.lt_succ_self, shiftIn_eq_take, delayLine_length hd hbefore,
        List.getElem?_take_of_lt hj, ih hbefore (Nat.le_of_succ_le hj)]
      simp

/-- What leaves a delay line of length `d` entered it `d` ticks before. -/
theorem shiftOut_delayLine (hd : (line 0).length = d)
    (h : ∀ k < n, line (k + 1) = shiftIn (e k) (line k)) (hn : d ≤ n) :
    shiftOut (e n) (line n) = e (n - d) := by
  have hlast := cons_getElem?_length_eq_shiftOut (e n) (line n)
  rw [delayLine_length hd h, delayLine_getElem? hd h le_rfl, if_pos hn] at hlast
  exact (Option.some.inj hlast).symm

/-- In the first `d` ticks what leaves a delay line stood in it at the start. -/
theorem shiftOut_delayLine_mem (hd : (line 0).length = d)
    (h : ∀ k < n, line (k + 1) = shiftIn (e k) (line k)) (hn : n < d) :
    shiftOut (e n) (line n) ∈ line 0 := by
  have hlast := cons_getElem?_length_eq_shiftOut (e n) (line n)
  rw [delayLine_length hd h, delayLine_getElem? hd h le_rfl, if_neg (not_le.mpr hn)] at hlast
  exact List.mem_of_getElem? hlast

end

/-! Registers and pins -/

theorem bitslipDepth_pos_of_paramsLegal {p : Params} (h : paramsLegal p = true) : 1 ≤ p.bitslipDepth := by
  simp only [paramsLegal, Bool.and_eq_true, decide_eq_true_eq] at h
  tauto

theorem pulsed_bound {select : Bits} {rst inc : Bool} {step : ℕ → ℕ} {v : List ℕ} {m : ℕ} (hm : 0 < m)
    (hstep : ∀ c, c < m → step c < m) (hv : ∀ c ∈ v, c < m) :
    ∀ c ∈ pulsed select rst inc step v, c < m := by
  have hzeroed := pulseLanes_bound (select := select) (f := zeroed) (fun _ _ => hm) hv
  unfold pulsed
  split_ifs
  · exact pulseLanes_bound hstep hzeroed
  · exact pulseLanes_bound hstep hv
  · exact hzeroed
  · exact hv

theorem getD_lt_of_forall_mem {v : List ℕ} {m : ℕ} (hm : 0 < m) (hv : ∀ c ∈ v, c < m) (k : ℕ) :
    v.getD k 0 < m := by
  rcases lt_or_ge k v.length with hk | hk
  · rw [List.getD_eq_getElem _ _ hk]
    exact hv _ (List.getElem_mem hk)
  · rwa [List.getD_eq_default _ _ hk]

theorem bitAt_sampledOf {p : Params} {pin j : ℕ} (hpin : pin < p.dataBits) (hj : j < 2 * p.phases)
    (i : TickInput) : bitAt ((sampledOf p i).getD pin []) j = bitAt (i.pinIn.getD pin []) j := by
  rw [sampledOf_getD hpin, bitAt_fitBits, if_pos hj]

/-! The states and the blocks of a run -/

theorem Accepted.of_params {x y : Phy} {i : TickInput} (h : Accepted x i) (hp : y.params = x.params) :
    Accepted y i := by
  unfold Accepted
  rw [hp]
  exact h

theorem afterTicks_zero (s : State) (inputs : List TickInput) :
    afterTicks s inputs 0 = .next (withTicks s inputs) := rfl

/-- The run after its first tick is a run over the inputs that are left. -/
theorem afterTicks_cons {s t : State} {i : TickInput} {rest : List TickInput}
    (h : runTick (withTicks s rest) i = .next t) (k : ℕ) :
    afterTicks s (i :: rest) (k + 1) = afterTicks t rest k := by
  have hrun := run_succ_of_tick (s := withTicks s (i :: rest)) rfl h k
  rwa [← withTicks_eq_self (runTick_script h)] at hrun

/-- The run of `s` over `inputs`: `states k` is the state after `k` ticks and `blocks k` its block. -/
structure RunsThrough (s : State) (inputs : List TickInput) (states : ℕ → State) (blocks : ℕ → Phy) :
    Prop where
  reached : ∀ k ≤ inputs.length, afterTicks s inputs k = .next (states k)
  live : ∀ k ≤ inputs.length, (states k).block = .live (blocks k)
  tick : ∀ k < inputs.length, ∃ script,
    runTick ((states k).withScript script) (inputAt inputs k) = .next (states (k + 1))

/-- A run over accepted inputs completes (46_system_tick.md R204). -/
theorem exists_runsThrough {s : State} {x : Phy} {inputs : List TickInput} (hx : s.block = .live x)
    (h : ∀ i ∈ inputs, Accepted x i) : ∃ states blocks, RunsThrough s inputs states blocks := by
  induction inputs generalizing s x with
  | nil =>
    refine ⟨fun _ => withTicks s [], fun _ => x, fun k hk => ?_, fun _ _ => hx, nofun⟩
    rw [Nat.le_zero.mp hk, afterTicks_zero]
  | cons i rest ih =>
    obtain ⟨hi, hrest⟩ := List.forall_mem_cons.mp h
    obtain ⟨t, y, ht, hy, hp⟩ := runTick_of_accepted (s := withTicks s rest) hx hi
    obtain ⟨states, blocks, hrun⟩ := ih hy fun j hj => (hrest j hj).of_params hp
    refine ⟨fun | 0 => withTicks s (i :: rest) | k + 1 => states k,
      fun | 0 => x | k + 1 => blocks k, fun k hk => ?_, fun k hk => ?_, fun k hk => ?_⟩
    · cases k with
      | zero => rfl
      | succ k => exact (afterTicks_cons ht k).trans (hrun.reached k (Nat.le_of_succ_le_succ hk))
    · cases k with
      | zero => exact hx
      | succ k => exact hrun.live k (Nat.le_of_succ_le_succ hk)
    · cases k with
      | zero =>
        have hstart := hrun.reached 0 (Nat.zero_le _)
        rw [afterTicks_zero, withTicks_eq_self (runTick_script ht)] at hstart
        exact ⟨rest.map .tick, ht.trans hstart⟩
      | succ k => exact hrun.tick k (Nat.lt_of_succ_lt_succ hk)

namespace RunsThrough
variable {s : State} {x : Phy} {inputs : List TickInput} {states : ℕ → State} {blocks : ℕ → Phy}

theorem blocks_zero (hrun : RunsThrough s inputs states blocks) (hx : s.block = .live x) : blocks 0 = x := by
  have hstart := Host.Outcome.next.inj
    ((afterTicks_zero s inputs).symm.trans (hrun.reached 0 (Nat.zero_le _)))
  have hlive := hrun.live 0 (Nat.zero_le _)
  rw [← hstart] at hlive
  exact (Block.live.inj (hx.symm.trans hlive)).symm

theorem params_eq (hrun : RunsThrough s inputs states blocks) (hx : s.block = .live x) {k : ℕ}
    (hk : k ≤ inputs.length) : (blocks k).params = x.params := by
  obtain ⟨y, hy, hp, -⟩ := ticksKeepTheConstants s x inputs k _ hx hk (hrun.reached k hk)
  cases hy.symm.trans (hrun.live k hk)
  exact hp

theorem dataTick (hrun : RunsThrough s inputs states blocks) {k : ℕ} (hk : k < inputs.length) :
    DataTick (blocks k) (inputAt inputs k) (states (k + 1)) (blocks (k + 1)) := by
  obtain ⟨script, htick⟩ := hrun.tick k hk
  exact runTick_dataTick (s := (states k).withScript script) (hrun.live k hk.le) htick (hrun.live (k + 1) hk)

theorem rot_lt (hrun : RunsThrough s inputs states blocks) (hx : s.block = .live x)
    (hpos : 0 < x.params.phases) (hrot : ∀ v ∈ x.rot, v < 2 * x.params.phases) {k : ℕ}
    (hk : k ≤ inputs.length) : ∀ v ∈ (blocks k).rot, v < 2 * x.params.phases := by
  induction k with
  | zero => rwa [hrun.blocks_zero hx]
  | succ k ih =>
    obtain ⟨script, htick⟩ := hrun.tick k hk
    obtain ⟨-, -, -, hpulsed, -⟩ := runTick_calibration_elements (s := (states k).withScript script)
      (hrun.live k (Nat.le_of_succ_le hk)) htick (hrun.live (k + 1) hk)
    rw [hpulsed]
    refine pulsed_bound (by omega) (fun v _ => ?_) (ih (Nat.le_of_succ_le hk))
    rw [rotStep, hrun.params_eq hx (Nat.le_of_succ_le hk)]
    exact Nat.mod_lt _ (by omega)

/-- The pads of tick `n` (41_serdes.md R127). -/
theorem pads_eq (hrun : RunsThrough s inputs states blocks) (hx : s.block = .live x)
    (inv : PhyInv x) {n : ℕ} (hn : n < inputs.length) (hdepth : x.params.serDepth ≤ n) :
    (states (n + 1)).out.pads = padsOf (states (n - x.params.serDepth + 1)).sig.drive := by
  rw [(hrun.dataTick hn).pads]
  refine congrArg padsOf (shiftOut_delayLine (line := fun k => (blocks k).serPipe)
    (e := fun k => (states (k + 1)).sig.drive) ?_ (fun k hk => (hrun.dataTick (hk.trans hn)).serPipe) hdepth)
  simpa only [hrun.blocks_zero hx] using inv.serPipe

/-- In the first `SER_DEPTH` ticks an entry of the line at the start is on the pads. -/
theorem pads_mem_start (hrun : RunsThrough s inputs states blocks) (hx : s.block = .live x)
    (inv : PhyInv x) {n : ℕ} (hn : n < inputs.length) (hdepth : n < x.params.serDepth) :
    ∃ e ∈ x.serPipe, (states (n + 1)).out.pads = padsOf e := by
  have hmem := shiftOut_delayLine_mem (line := fun k => (blocks k).serPipe)
    (e := fun k => (states (k + 1)).sig.drive) (d := x.params.serDepth)
    (by simpa only [hrun.blocks_zero hx] using inv.serPipe)
    (fun k hk => (hrun.dataTick (hk.trans hn)).serPipe) hdepth
  simp only [hrun.blocks_zero hx] at hmem
  exact ⟨_, hmem, (hrun.dataTick hn).pads⟩

/-- The groups that reach the aligner in tick `n` are the pins of `DES_DEPTH` ticks before
(41_serdes.md R129). -/
theorem group_eq (hrun : RunsThrough s inputs states blocks) (hx : s.block = .live x)
    (inv : PhyInv x) {n : ℕ} (hn : n < inputs.length) (hdepth : x.params.desDepth ≤ n) :
    (states (n + 1)).sig.group = sampledOf x.params (inputAt inputs (n - x.params.desDepth)) := by
  have hsampled {k : ℕ} (hk : k ≤ inputs.length) :
      sampledOf (blocks k).params (inputAt inputs k) = sampledOf x.params (inputAt inputs k) := by
    rw [hrun.params_eq hx hk]
  rw [(hrun.dataTick hn).group, hsampled hn.le]
  refine shiftOut_delayLine (line := fun k => (blocks k).desPipe)
    (e := fun k => sampledOf x.params (inputAt inputs k)) ?_ (fun k hk => ?_) hdepth
  · simpa only [hrun.blocks_zero hx] using inv.desPipe
  · rw [← hsampled (hk.trans hn).le]
    exact (hrun.dataTick (hk.trans hn)).desPipe

/-- The window register before tick `n + 1` holds the groups of tick `n` (43_bitslip.md R160). -/
theorem bsPrev_eq (hrun : RunsThrough s inputs states blocks) (hx : s.block = .live x)
    (inv : PhyInv x) {n : ℕ} (hn : n < inputs.length) (hdepth : x.params.desDepth ≤ n) :
    (blocks (n + 1)).bsPrev = sampledOf x.params (inputAt inputs (n - x.params.desDepth)) := by
  rw [(hrun.dataTick hn).bsPrev, hrun.params_eq hx hn.le, hrun.group_eq hx inv hn hdepth]
  exact groupsOf_eq_self (sampledOf_wf _ _)

/-- The read data of tick `n` are what the aligner selected `BITSLIP_DEPTH - 1` ticks before
(10_state.md R37, 41_serdes.md R130). -/
theorem rddata_eq (hrun : RunsThrough s inputs states blocks) (hx : s.block = .live x)
    (inv : PhyInv x) {n m : ℕ} (hn : n < inputs.length) (hm : m + (x.params.bitslipDepth - 1) = n) :
    (states (n + 1)).out.rddata =
      rddataOf x.params (selectedOf (blocks m) (states (m + 1)).sig.group) := by
  rw [(hrun.dataTick hn).rddata, hrun.params_eq hx hn.le]
  have hselected := shiftOut_delayLine (line := fun k => (blocks k).bsPipe)
    (e := fun k => selectedOf (blocks k) (states (k + 1)).sig.group) (d := x.params.bitslipDepth - 1) (n := n)
    (by simpa only [hrun.blocks_zero hx] using inv.bsPipe)
    (fun k hk => (hrun.dataTick (hk.trans hn)).bsPipe) (by omega)
  rw [hselected, ← hm, Nat.add_sub_cancel]

/-- The bits that the aligner selects in tick `m + 1`: those of two ticks of the pins, `DES_DEPTH` before,
from the rotation of the pin's lane on. -/
theorem bitAt_selected (hrun : RunsThrough s inputs states blocks) (hx : s.block = .live x)
    (inv : PhyInv x) {m pin k : ℕ} (hm : m + 1 < inputs.length) (hdepth : x.params.desDepth ≤ m)
    (hpin : pin < x.params.dataBits) (hk : k < 2 * x.params.phases) :
    bitAt ((selectedOf (blocks (m + 1)) (states (m + 2)).sig.group).getD pin []) k =
      if (blocks (m + 1)).rot.getD (pin / 8) 0 + k < 2 * x.params.phases then
        pinBit inputs (m - x.params.desDepth) pin ((blocks (m + 1)).rot.getD (pin / 8) 0 + k)
      else pinBit inputs (m - x.params.desDepth + 1) pin
        ((blocks (m + 1)).rot.getD (pin / 8) 0 + k - 2 * x.params.phases) := by
  have hpos : 0 < x.params.phases := by omega
  have hparams := hrun.params_eq hx hm.le
  have hprev := hrun.bsPrev_eq hx inv (Nat.lt_of_succ_lt hm) hdepth
  have hgroup := hrun.group_eq hx inv hm (Nat.le_succ_of_le hdepth)
  have hrot : (blocks (m + 1)).rot.getD (pin / 8) 0 < 2 * x.params.phases :=
    getD_lt_of_forall_mem (by omega) (hrun.rot_lt hx hpos inv.rotBound hm.le) _
  rw [bitAt_selectedOf (by rwa [hparams]) (by rwa [hparams]) (by rwa [hparams])
    (by rw [hparams, hprev]; exact sampledOf_wf _ _) (by rw [hparams, hgroup]; exact sampledOf_wf _ _),
    hparams, hprev, hgroup, Nat.sub_add_comm hdepth]
  split_ifs with hwindow
  · exact bitAt_sampledOf hpin hwindow _
  · exact bitAt_sampledOf hpin (by omega) _

end RunsThrough

/-- A pin without an enable presents high impedance (20_memory.md R55). -/
theorem map_presentPin_of_disabled {n count : ℕ} {pins : List PinEntry} (h : PinsWf n count pins)
    (hen : ∀ q ∈ pins, q.en = false) : pins.map presentPin = List.replicate count .hiZ := by
  obtain ⟨hcount, -⟩ := h
  refine List.eq_replicate_iff.mpr ⟨by rw [List.length_map, hcount], fun v hv => ?_⟩
  obtain ⟨q, hq, rfl⟩ := List.mem_map.mp hv
  rw [presentPin, hen q hq, if_neg Bool.false_ne_true]

/-- Settles O56: `ser_pipe` is a delay line of the drive (`shiftOut_delayLine`), which at first shows what
stood in it at the start. -/
theorem padsShowTheDelayedDrive : Obligations.PadsShowTheDelayedDrive := by
  intro s x inputs n hx inv haccepted hn
  obtain ⟨states, blocks, hrun⟩ := exists_runsThrough hx haccepted
  refine ⟨_, hrun.reached (n + 1) hn, fun hdepth => ?_, fun hdepth hquiet => ?_⟩
  · rw [Nat.sub_add_comm hdepth]
    exact ⟨_, hrun.reached _ (by omega), hrun.pads_eq hx inv hn hdepth⟩
  · obtain ⟨e, he, hpads⟩ := hrun.pads_mem_start hx inv hn hdepth
    obtain ⟨hdq, hdqs⟩ := hquiet e he
    have hwf := inv.serEntries e he
    rw [hpads]
    exact ⟨map_presentPin_of_disabled hwf.dq hdq, map_presentPin_of_disabled hwf.dqs hdqs⟩

/-- Settles O55: the read data of tick `n` were selected in tick `m + 1 = n - BITSLIP_DEPTH + 1`
(`rddata_eq`), from the pins of two ticks (`bitAt_selected`). -/
theorem readDataIsThePinsRotated : Obligations.ReadDataIsThePinsRotated := by
  intro s x inputs n hx inv haccepted hn hdepth
  obtain ⟨states, blocks, hrun⟩ := exists_runsThrough hx haccepted
  have hbitslip := bitslipDepth_pos_of_paramsLegal inv.legal
  obtain ⟨m, rfl⟩ : ∃ m, n = m + x.params.bitslipDepth := ⟨n - x.params.bitslipDepth, by omega⟩
  have hm : m + x.params.bitslipDepth + 1 - x.params.bitslipDepth = m + 1 := by omega
  have htick : m + x.params.bitslipDepth - x.params.desDepth - x.params.bitslipDepth =
    m - x.params.desDepth := by omega
  rw [hm, htick]
  refine ⟨_, _, _, hrun.reached _ hn, hrun.reached (m + 1) (by omega), hrun.live (m + 1) (by omega),
    fun p hp pin hpin h hh => ?_⟩
  rw [hrun.rddata_eq hx inv (m := m + 1) hn (by omega), rddataOf_getD hp, bitAt_rddataWord hpin hh]
  exact hrun.bitAt_selected hx inv (by omega) (by omega) hpin (by omega)

end Sys2Proof.Machine
end

/-! ## Flow control: tracking registers and flags (42_flow_control.md R140 to R151) -/

section
namespace Sys2Proof.Machine

/-! One rule for each operation -/

section
variable {s : State} {x : Phy}

theorem exec_wren_live (h : s.block = .live x) :
    exec .wren s = .next (s.withSig { s.sig with wren := true }) :=
  onLive_live h _

theorem exec_rden_live (h : s.block = .live x) :
    exec .rden s = .next (s.withSig { s.sig with rden := true }) :=
  onLive_live h _

theorem exec_wrTrack_live (h : s.block = .live x) :
    exec .wrTrack s = .next (s.withPhy (shiftWr x s.sig.wren)) :=
  onLive_live h _

theorem exec_rdTrack_live (h : s.block = .live x) :
    exec .rdTrack s = .next (s.withPhy (shiftRd x s.sig.rden)) :=
  onLive_live h _

theorem exec_oe_live (h : s.block = .live x) :
    exec .oe s = .next (s.withSig { s.sig with oe := oeFlag x }) :=
  onLive_live h _

theorem exec_oeDqs_live (h : s.block = .live x) :
    exec .oeDqs s = .next (s.withSig { s.sig with oeDqs := oeDqsFlag x s.sig.oe }) :=
  onLive_live h _

theorem exec_dqsPre_live (h : s.block = .live x) :
    exec .dqsPre s = .next (s.withSig { s.sig with dqsPre := dqsPreFlag x s.sig.wren }) :=
  onLive_live h _

theorem exec_dqsPost_live (h : s.block = .live x) :
    exec .dqsPost s = .next (s.withSig { s.sig with dqsPost := dqsPostFlag x s.sig.wren }) :=
  onLive_live h _

theorem exec_rdValid_live (h : s.block = .live x) :
    exec .rdValid s =
      .next (s.withOut { s.out with rddataValid := List.replicate x.params.phases (validFlag x) }) :=
  onLive_live h _

end

/-! Positions of the tracking registers -/

theorem bitAt_cons_succ (b : Bool) (line : Bits) (p : ℕ) : bitAt (b :: line) (p + 1) = bitAt line p := rfl

theorem bitAt_shiftIn {line : Bits} {p : ℕ} (h : p < line.length) (b : Bool) :
    bitAt (shiftIn b line) p = bitAt (b :: line) p := by
  simp only [bitAt, List.getD_eq_getElem?_getD, shiftIn_eq_take, List.getElem?_take_of_lt h]

theorem bitAt_shiftIn_of_pos {line : Bits} {p : ℕ} (hpos : 1 ≤ p) (h : p < line.length) (b : Bool) :
    bitAt (shiftIn b line) p = bitAt line (p - 1) := by
  obtain ⟨q, rfl⟩ := Nat.exists_eq_add_of_le' hpos
  rw [bitAt_shiftIn h, bitAt_cons_succ, Nat.add_sub_cancel]

/-- The bounds of 40_construction.md R109 on `RL`, `WL` and `D`, for the block that they are constants of. -/
theorem PhyInv.latency_bounds {x : Phy} (inv : PhyInv x) :
    2 ≤ x.settings.readLatency ∧ 1 ≤ x.settings.writeLatency ∧ 1 ≤ centerOf x ∧
      centerOf x ≤ x.settings.writeLatency := by
  obtain ⟨-, -, -, -, hrange⟩ := builtSettingsAreInRange _ _ inv.built
  exact hrange

/-- Position 0 of the line is the input of the tick, the positions after it are those of `wr_sr`. -/
theorem wrAt_succ {x : Phy} {p : ℕ} (h : p < x.wrSr.length) (wren : Bool) :
    wrAt x wren (p + 1) = bitAt x.wrSr p := by
  rw [wrAt, wrLine, bitAt_cons_succ, bitAt_append, if_pos h]

theorem wrAt_tail (x : Phy) (wren : Bool) : wrAt x wren (x.wrSr.length + 1) = x.wrTail := by
  rw [wrAt, wrLine, bitAt_cons_succ, bitAt_append, if_neg (Nat.lt_irrefl _), Nat.sub_self]
  rfl

/-- The line that starts at position -1 holds the positions of 10_state.md R30 and R31. -/
theorem wrPos_eq_wrAt {x : Phy} (h : x.wrSr.length = x.settings.writeLatency + 2) (wren : Bool) {p : ℤ}
    {q : ℕ} (hq : p = q - 1) (hmax : q ≤ x.settings.writeLatency + 3) : wrPos x wren p = wrAt x wren q := by
  cases q with
  | zero => exact if_pos (by omega)
  | succ k =>
    obtain rfl : p = k := by omega
    rw [wrPos, if_neg (by omega), Int.toNat_natCast]
    rcases Nat.lt_or_eq_of_le (Nat.le_of_succ_le_succ hmax) with hk | rfl
    · rw [if_neg (by omega), wrAt_succ (by omega)]
    · rw [if_pos (by omega), ← h, wrAt_tail]

/-- The data window of 42_flow_control.md R142 in the same line; the input of the tick is not in it. -/
theorem oeFlag_eq_wrAt {x : Phy} (h : x.wrSr.length = x.settings.writeLatency + 2)
    (hpos : 1 ≤ x.settings.writeLatency) (wren : Bool) : oeFlag x =
      (wrAt x wren x.settings.writeLatency || wrAt x wren (x.settings.writeLatency + 1) ||
        wrAt x wren (x.settings.writeLatency + 2)) := by
  rw [oeFlag, wrAt_succ (by omega), wrAt_succ (by omega), ← wrAt_succ (by omega) wren,
    Nat.sub_add_cancel hpos]

/-! The obligations about single operations -/

/-- Settles O23: the rules of `WREN` and `RDEN`. -/
theorem flowFlagsSetTheirWire : Obligations.FlowFlagsSetTheirWire :=
  fun _ _ hx => ⟨exec_wren_live hx, exec_rden_live hx⟩

/-- Settles O24: `WR_TRACK` is `shiftWr`, and a position after the first takes the one before it. -/
theorem writeTrackingShifts : Obligations.WriteTrackingShifts := by
  intro s x hx inv
  have hlen := inv.wrSr
  exact ⟨_, exec_wrTrack_live hx, (shiftIn_length _ _).trans hlen, bitAt_shiftIn (by omega) _,
    fun p hpos hp => bitAt_shiftIn_of_pos hpos (by omega) _⟩

theorem validFlag_eq_ite (x : Phy) : validFlag x =
    if x.params.hasWlevel = true ∧ x.wlevelEn = true then true
    else bitAt x.rdSr (x.settings.readLatency - 2) := by
  unfold validFlag leveling
  split_ifs with hlevel
  · obtain ⟨hpresent, hmode⟩ := hlevel
    rw [hpresent, hmode, Bool.and_true, Bool.or_true]
  · rw [Bool.eq_false_iff.mpr (mt (Bool.and_eq_true _ _).mp hlevel), Bool.or_false]

/-- Settles O25: `RD_VALID` shows `validFlag`, and `RD_TRACK` is `shiftRd`. -/
theorem readTrackingShiftsAndShowsItsLastPosition :
    Obligations.ReadTrackingShiftsAndShowsItsLastPosition := by
  intro s x hx inv
  have hlen := inv.rdSr
  obtain ⟨hread, -⟩ := inv.latency_bounds
  rw [← validFlag_eq_ite]
  exact ⟨exec_rdValid_live hx, _, exec_rdTrack_live hx, (shiftIn_length _ _).trans hlen,
    bitAt_shiftIn (by omega) _, fun p hpos hp => bitAt_shiftIn_of_pos hpos (by omega) _⟩

/-! The flags over positions, for every input of the tick -/

section
variable {x : Phy} (inv : PhyInv x) (wren : Bool)
include inv

theorem oeFlag_eq_wrPos : oeFlag x =
    (wrPos x wren (x.settings.writeLatency - 1) || wrPos x wren x.settings.writeLatency ||
      wrPos x wren (x.settings.writeLatency + 1)) := by
  obtain ⟨-, hwl, -⟩ := inv.latency_bounds
  rw [oeFlag_eq_wrAt inv.wrSr hwl wren, wrPos_eq_wrAt inv.wrSr wren (q := x.settings.writeLatency),
    wrPos_eq_wrAt inv.wrSr wren (q := x.settings.writeLatency + 1),
    wrPos_eq_wrAt inv.wrSr wren (q := x.settings.writeLatency + 2)] <;> omega

theorem dqsPreFlag_eq_wrPos : dqsPreFlag x wren =
    (wrPos x wren (centerOf x - 2) && !wrPos x wren (centerOf x)) := by
  obtain ⟨-, -, hd, hdwl⟩ := inv.latency_bounds
  rw [dqsPreFlag, wrPos_eq_wrAt inv.wrSr wren (q := centerOf x - 1),
    wrPos_eq_wrAt inv.wrSr wren (q := centerOf x + 1)] <;> omega

theorem dqsPostFlag_eq_wrPos : dqsPostFlag x wren =
    (wrPos x wren (centerOf x + 2) && !wrPos x wren (centerOf x)) := by
  obtain ⟨-, -, -, hdwl⟩ := inv.latency_bounds
  rw [dqsPostFlag, wrPos_eq_wrAt inv.wrSr wren (q := centerOf x + 3),
    wrPos_eq_wrAt inv.wrSr wren (q := centerOf x + 1)] <;> omega

end

/-- Settles O26: every position that the flags read is one of `wrLine`, for `1 <= D <= WL`. -/
theorem writeFlagsReadTheirPositions : Obligations.WriteFlagsReadTheirPositions := by
  rintro s x wl d hx inv rfl rfl
  rw [← oeFlag_eq_wrPos inv]
  exact ⟨exec_oe_live hx, exec_oeDqs_live hx, by rw [exec_dqsPre_live hx, dqsPreFlag_eq_wrPos inv]; rfl,
    by rw [exec_dqsPost_live hx, dqsPostFlag_eq_wrPos inv]; rfl⟩

end Sys2Proof.Machine
end

/-! ## The wires of a tick (46_system_tick.md R202 steps 2 and 3) -/

section
namespace Sys2Proof.Machine

/-- What a tick with the inputs `i` on the block `x` leaves on the flag wires, the strobe word, the drive and
the read-valid outputs of the state `t` (46_system_tick.md R202 steps 2 and 3, 42_flow_control.md R151). -/
structure WireTick (x : Phy) (i : TickInput) (t : State) : Prop where
  oe : t.sig.oe = oeFlag x
  oeDqs : t.sig.oeDqs = oeDqsFlag x (oeFlag x)
  dqsPre : t.sig.dqsPre = dqsPreFlag x (wrenOf x i)
  dqsPost : t.sig.dqsPost = dqsPostFlag x (wrenOf x i)
  dqs : t.sig.dqs = dqsWordOf x t.sig.dqsPre t.sig.dqsPost t.sig.strobe
  drive : t.sig.drive =
    driveOf x.params t.sig.cmd t.sig.dq t.sig.dm t.sig.dqs t.sig.oe t.sig.oeDqs
  rddataValid : t.out.rddataValid = List.replicate x.params.phases (validFlag x)

/-- The operations of `TICK` after the drive. -/
def registerOrder : List Instr := [.serPipe, .desDq, .bsAlign, .rdAssemble, .wrTrack, .rdTrack]

theorem schedule_eq_wires (bus flow cal : List Instr) :
    schedule bus flow cal = (bus ++ flow ++ cal.filter beforeTick) ++ ((wireOrder ++ [.tristate]) ++
      (registerOrder ++ cal.filter fun i => !beforeTick i)) := by
  have htick : tickOrder = (wireOrder ++ [.tristate]) ++ registerOrder := rfl
  simp only [schedule, htick, List.append_assoc]

/-- After the bus read, the flow flags and the leveling strobe the block is still that of the pre-state, and
the wire `wren(t)` holds the enable of the designated phase. -/
theorem runOps_beforeWires {s u : State} {x : Phy} {i : TickInput} {bus cal : List Instr}
    (hx : s.block = .live x) (hcal : decodeCtl (variantOf x.params) i.ctl = .ok cal)
    (hbus : busOps (variantOf x.params) i.busRead = .ok bus)
    (h : runOps (bus ++ decodeFlow (flowWord x i) ++ cal.filter beforeTick) (beginTick s i) = .next u) :
    u.block = .live x ∧ u.sig.wren = wrenOf x i := by
  have hleaves := leavesBlock_before hbus (flowWord x i) cal
  have hblock : u.block = .live x :=
    runOps_foldl (R := fun v (_ : Unit) => v.block = .live x) (effect := fun _ _ => ())
      (fun hop hv hexec => (exec_leavesBlock hop hexec).trans hv)
      (fun op hop => hleaves op (List.mem_append_left _ hop)) (s := beginTick s i) (a := ()) hx h
  have hneutral := flowNeutral_of_decodeCtl hcal
  have hbefore : ∀ op ∈ cal.filter beforeTick, FlowNeutral op :=
    fun op hop => hneutral op (List.mem_filter.mp hop).1
  have hconstruct := not_isConstruct_of_schedule (x := x) (i := i) (flowNeutral_of_busOps hbus) hneutral
  rw [schedule_eq_wires] at hconstruct
  have hflow := runOps_foldl (R := ShowsFlow) exec_showsFlow
    (fun op hop => hconstruct op (List.mem_append_left _ hop)) (beginTick_showsFlow hx i) h
  rw [List.foldl_append, List.foldl_append, foldl_flowEffect_of_neutral (flowNeutral_of_busOps hbus),
    foldl_flowEffect_decodeFlow x i rfl rfl, foldl_flowEffect_of_neutral hbefore] at hflow
  obtain ⟨y, -, hview⟩ := hflow
  exact ⟨hblock, (congrArg FlowView.wren hview).symm⟩

/-! Writes of wires and outputs one after another: the last one of each kind counts -/

@[simp] theorem State.withSig_withSig (s : State) (g h : Signals) : (s.withSig g).withSig h = s.withSig h := rfl
@[simp] theorem State.withOut_withSig (s : State) (o : Outputs) (g : Signals) :
    (s.withOut o).withSig g = (s.withSig g).withOut o := rfl

/-- The operations of `TICK` up to the drive compute the wires of the tick, each from those before it. -/
theorem runOps_wires {s t : State} {x : Phy} {i : TickInput} (hx : s.block = .live x)
    (hwren : s.sig.wren = wrenOf x i) (h : runOps (wireOrder ++ [.tristate]) s = .next t) :
    WireTick x i t := by
  simp only [wireOrder, List.cons_append, List.nil_append, runOps, exec_oe_live hx,
    exec_oeDqs_live (x := x), exec_dqsPre_live (x := x), exec_dqsPost_live (x := x),
    exec_rdValid_live (x := x), exec_serCmd_live (x := x), exec_serDq_live (x := x),
    exec_serDm_live (x := x), exec_serDqs_live (x := x), exec_tristate_live (x := x),
    State.withSig_block, State.withOut_block, hx, State.withSig_sig, State.withOut_sig,
    State.withSig_withSig, State.withOut_withSig, hwren] at h
  cases h
  exact ⟨rfl, rfl, rfl, rfl, rfl, rfl, rfl⟩

/-- The operations after the drive: they move registers and leave the wires before them as they are. -/
def leavesWires (i : Instr) : Bool := leavesDataPath i || registerOrder.contains i

theorem exec_leavesWires {x : Phy} {input : TickInput} {i : Instr} {s t : State}
    (hi : leavesWires i = true) (hs : WireTick x input s) (h : exec i s = .next t) :
    WireTick x input t := by
  cases i with
  | calNop | wrTrack | rdTrack | rdlyRst | rdlyInc | bsRst | bsInc | sel wdata | serPipe | desDq | bsAlign
  | rdAssemble =>
    obtain ⟨y, -, hy⟩ := onLive_next h
    cases hy
    exact { hs with }
  | wdlyRst | wdlyInc | wlevelEn wdata =>
    obtain ⟨y, -, hy⟩ := onLive_next h
    obtain ⟨-, ht⟩ := ifPresent_next hy
    cases ht
    exact { hs with }
  | _ => cases hi

/-- All that a completed tick leaves on the flag wires, the strobe word, the drive and the read-valid outputs:
they are computed on the block of the pre-state, and no later operation of the tick touches them. -/
theorem runTick_wireTick {s t : State} {x : Phy} {i : TickInput} (hx : s.block = .live x)
    (h : runTick s i = .next t) : WireTick x i t := by
  obtain ⟨x', ops, u, hx', hops, hrun, rfl⟩ := runTick_next h
  cases hx.symm.trans hx'
  obtain ⟨bus, cal, hcal, hbus, rfl⟩ := decodeTick_ok hops
  rw [schedule_eq_wires] at hrun
  obtain ⟨before, hbefore, hrest⟩ := runOps_append_inv hrun
  obtain ⟨hblock, hwren⟩ := runOps_beforeWires hx hcal hbus hbefore
  obtain ⟨driven, hdriven, hafter⟩ := runOps_append_inv hrest
  have hleaves : ∀ op ∈ registerOrder ++ cal.filter fun i => !beforeTick i, leavesWires op = true := by
    intro op hop
    rcases List.mem_append.mp hop with hop | hop
    · simp [leavesWires, hop]
    · simp [leavesWires, leavesDataPath_after hcal op (List.mem_append_right _ hop)]
  have hwires := runOps_foldl (R := fun v (_ : Unit) => WireTick x i v) (effect := fun _ _ => ())
    exec_leavesWires hleaves (a := ()) (runOps_wires hblock hwren hdriven) hafter
  exact { hwires with }

end Sys2Proof.Machine
end

/-! ## The history of the flow flags (42_flow_control.md R142 to R147, R152) -/

section
namespace Sys2Proof.Machine

/-! A register over time -/

/-- Position `j` of a register of length `d` under its input: the input of `j` ticks before, which counts as 0
before the first tick if the register starts empty. -/
theorem bitAt_delayLine {line : ℕ → Bits} {e : ℕ → Bool} {d n j : ℕ} (hd : (line 0).length = d)
    (h : ∀ k < n, line (k + 1) = shiftIn (e k) (line k)) (hj : j ≤ d)
    (hstart : d ≤ n ∨ ∀ p, bitAt (line 0) p = false) :
    bitAt (e n :: line n) j = (decide (j ≤ n) && e (n - j)) := by
  rw [bitAt, List.getD_eq_getElem?_getD, delayLine_getElem? hd h hj]
  rcases le_or_gt j n with hjn | hjn
  · rw [if_pos hjn, decide_eq_true hjn, Bool.true_and, Option.getD_some]
  · have hempty := hstart.resolve_left (by omega)
    rw [if_neg (not_le.mpr hjn), decide_eq_false (not_le.mpr hjn), Bool.false_and,
      ← List.getD_eq_getElem?_getD]
    exact hempty _

/-- Positions 0 to `WL+2` of the write-enable line are one shift register (42_flow_control.md R141). -/
theorem runTick_wrLine {s t : State} {x y : Phy} {i : TickInput} (hx : s.block = .live x)
    (hlen : x.wrSr.length = x.settings.writeLatency + 2) (h : runTick s i = .next t)
    (hy : t.block = .live y) :
    y.wrSr ++ [y.wrTail] = shiftIn (wrenOf x i) (x.wrSr ++ [x.wrTail]) := by
  obtain ⟨hwr, htail, -⟩ := runTick_tracking hx h hy
  rw [hwr, htail, bitAt_last_eq_shiftOut hlen (wrenOf x i), shiftIn_append_shiftOut, shiftIn,
    ← List.cons_append, List.dropLast_concat]

theorem bitAt_append_tail_of_quiet {x : Phy} (h : NoWriteInFlight x) (p : ℕ) :
    bitAt (x.wrSr ++ [x.wrTail]) p = false := by
  obtain ⟨hsr, htail⟩ := h
  rw [bitAt_append, htail]
  split_ifs
  · exact hsr p
  · cases p - x.wrSr.length <;> rfl

theorem inputAt_mem {inputs : List TickInput} {k : ℕ} (h : k < inputs.length) :
    inputAt inputs k ∈ inputs := by
  rw [inputAt, List.getD_eq_getElem _ _ h]
  exact List.getElem_mem h

namespace RunsThrough
variable {s : State} {x : Phy} {inputs : List TickInput} {states : ℕ → State} {blocks : ℕ → Phy}

theorem settings_eq (hrun : RunsThrough s inputs states blocks) (hx : s.block = .live x) {k : ℕ}
    (hk : k ≤ inputs.length) : (blocks k).settings = x.settings := by
  obtain ⟨y, hy, -, hs, -⟩ := ticksKeepTheConstants s x inputs k _ hx hk (hrun.reached k hk)
  cases hy.symm.trans (hrun.live k hk)
  exact hs

theorem wireTick (hrun : RunsThrough s inputs states blocks) {k : ℕ} (hk : k < inputs.length) :
    WireTick (blocks k) (inputAt inputs k) (states (k + 1)) := by
  obtain ⟨script, htick⟩ := hrun.tick k hk
  exact runTick_wireTick (s := (states k).withScript script) (hrun.live k hk.le) htick

/-- The designated phases are constants, so an enable is the same whichever block of the run reads it. -/
theorem enables_eq (hrun : RunsThrough s inputs states blocks) (hx : s.block = .live x) {k : ℕ}
    (hk : k ≤ inputs.length) (i : TickInput) :
    wrenOf (blocks k) i = wrenOf x i ∧ rdenOf (blocks k) i = rdenOf x i := by
  unfold wrenOf rdenOf
  rw [hrun.settings_eq hx hk]
  exact ⟨rfl, rfl⟩

theorem tracking (hrun : RunsThrough s inputs states blocks) (hx : s.block = .live x) {k : ℕ}
    (hk : k < inputs.length) :
    (blocks (k + 1)).wrSr = shiftIn (wrenOf x (inputAt inputs k)) (blocks k).wrSr ∧
      (blocks (k + 1)).rdSr = shiftIn (rdenOf x (inputAt inputs k)) (blocks k).rdSr := by
  obtain ⟨script, htick⟩ := hrun.tick k hk
  obtain ⟨hwr, -, hrd⟩ := runTick_tracking (s := (states k).withScript script) (hrun.live k hk.le) htick
    (hrun.live (k + 1) hk)
  obtain ⟨hwren, hrden⟩ := hrun.enables_eq hx hk.le (inputAt inputs k)
  exact ⟨hwren ▸ hwr, hrden ▸ hrd⟩

theorem wrSr_length (hrun : RunsThrough s inputs states blocks) (hx : s.block = .live x) (inv : PhyInv x)
    {k : ℕ} (hk : k ≤ inputs.length) :
    (blocks k).wrSr.length = (blocks k).settings.writeLatency + 2 := by
  rw [hrun.settings_eq hx hk]
  refine delayLine_length (line := fun k => (blocks k).wrSr) ?_
    (fun j hj => (hrun.tracking hx (hj.trans_le hk)).1)
  simpa only [hrun.blocks_zero hx] using inv.wrSr

/-- The write enables in terms of the input: position `j - 1` holds that of `j` ticks before
(10_state.md R30, R31). -/
theorem wrAt_eq_wrenAgo (hrun : RunsThrough s inputs states blocks) (hx : s.block = .live x)
    (inv : PhyInv x) {n : ℕ} (hn : n < inputs.length)
    (hstart : x.settings.writeLatency + 3 ≤ n ∨ NoWriteInFlight x) {j : ℕ}
    (hj : j ≤ x.settings.writeLatency + 3) :
    wrAt (blocks n) (wrenOf x (inputAt inputs n)) j = wrenAgo x inputs n j := by
  refine bitAt_delayLine (line := fun k => (blocks k).wrSr ++ [(blocks k).wrTail])
    (e := fun k => wrenOf x (inputAt inputs k)) ?_ (fun k hk => ?_) hj (hstart.imp_right fun hquiet => ?_)
  · simp [hrun.blocks_zero hx, inv.wrSr]
  · have hk := hk.trans hn
    obtain ⟨script, htick⟩ := hrun.tick k hk
    rw [← (hrun.enables_eq hx hk.le _).1]
    exact runTick_wrLine (s := (states k).withScript script) (hrun.live k hk.le)
      (hrun.wrSr_length hx inv hk.le) htick (hrun.live (k + 1) hk)
  · simpa only [hrun.blocks_zero hx] using bitAt_append_tail_of_quiet hquiet

/-- The last position of `rd_sr` holds the read enable of `read_latency - 1` ticks before
(42_flow_control.md R152). -/
theorem rdSr_last_eq_rdenAgo (hrun : RunsThrough s inputs states blocks) (hx : s.block = .live x)
    (inv : PhyInv x) {n : ℕ} (hn : n < inputs.length)
    (hstart : x.settings.readLatency - 1 ≤ n ∨ NoReadInFlight x) :
    bitAt (blocks n).rdSr (x.settings.readLatency - 2) =
      rdenAgo x inputs n (x.settings.readLatency - 1) := by
  obtain ⟨hread, -⟩ := inv.latency_bounds
  have hline := bitAt_delayLine (line := fun k => (blocks k).rdSr)
    (e := fun k => rdenOf x (inputAt inputs k)) (d := x.settings.readLatency - 1)
    (by simpa only [hrun.blocks_zero hx] using inv.rdSr)
    (fun k hk => (hrun.tracking hx (hk.trans hn)).2) le_rfl
    (hstart.imp_right fun hquiet => by simpa only [hrun.blocks_zero hx, NoReadInFlight] using hquiet)
  rwa [show x.settings.readLatency - 1 = x.settings.readLatency - 2 + 1 by omega] at hline ⊢

/-- Without a write of `wlevel_en` a run that starts in normal mode stays in it
(45_write_leveling.md R190). -/
theorem leveling_eq_false (hrun : RunsThrough s inputs states blocks) (hx : s.block = .live x)
    (hmode : x.wlevelEn = false) (hctl : ∀ i ∈ inputs, bitAt i.ctl 7 = false) {k : ℕ}
    (hk : k ≤ inputs.length) : leveling (blocks k) = false := by
  have hnormal : (blocks k).wlevelEn = false := by
    induction k with
    | zero => rwa [hrun.blocks_zero hx]
    | succ k ih =>
      obtain ⟨script, htick⟩ := hrun.tick k hk
      obtain ⟨-, -, -, -, hwlevel⟩ := runTick_calibration_elements (s := (states k).withScript script)
        (hrun.live k (Nat.le_of_succ_le hk)) htick (hrun.live (k + 1) hk)
      rw [hwlevel, hctl _ (inputAt_mem hk), if_neg Bool.false_ne_true]
      exact ih (Nat.le_of_succ_le hk)
  rw [leveling, hnormal, Bool.and_false]

/-- The write-side flags of tick `n` in terms of the input (42_flow_control.md R142, R144, R145). -/
theorem writeFlags (hrun : RunsThrough s inputs states blocks) (hx : s.block = .live x)
    (inv : PhyInv x) {n : ℕ} (hn : n < inputs.length)
    (hstart : x.settings.writeLatency + 3 ≤ n ∨ NoWriteInFlight x) :
    (states (n + 1)).sig.oe = (wrenAgo x inputs n x.settings.writeLatency ||
        wrenAgo x inputs n (x.settings.writeLatency + 1) ||
        wrenAgo x inputs n (x.settings.writeLatency + 2)) ∧
      (states (n + 1)).sig.dqsPre =
        (wrenAgo x inputs n (centerOf x - 1) && !wrenAgo x inputs n (centerOf x + 1)) ∧
      (states (n + 1)).sig.dqsPost =
        (wrenAgo x inputs n (centerOf x + 3) && !wrenAgo x inputs n (centerOf x + 1)) := by
  obtain ⟨-, hwl, -, hdwl⟩ := inv.latency_bounds
  have hsettings := hrun.settings_eq hx hn.le
  have hcenter : centerOf (blocks n) = centerOf x := by
    rw [centerOf, hsettings, hrun.params_eq hx hn.le, centerOf]
  have hwires := hrun.wireTick hn
  have hago {j : ℕ} := hrun.wrAt_eq_wrenAgo hx inv hn hstart (j := j)
  rw [hwires.oe, hwires.dqsPre, hwires.dqsPost, (hrun.enables_eq hx hn.le _).1,
    oeFlag_eq_wrAt (hrun.wrSr_length hx inv hn.le) (hsettings ▸ hwl) (wrenOf x (inputAt inputs n)),
    dqsPreFlag, dqsPostFlag, hcenter, hsettings]
  refine ⟨?_, ?_, ?_⟩
  · rw [hago (by omega), hago (by omega), hago (by omega)]
  · rw [hago (by omega), hago (by omega)]
  · rw [hago (by omega), hago (by omega)]

end RunsThrough

/-- Settles O52: the flags read the line of write enables, which is a shift register over the whole run
(`wrAt_eq_wrenAgo`). -/
theorem writeFlagsFollowTheEnableHistory : Obligations.WriteFlagsFollowTheEnableHistory := by
  rintro s x inputs n _ _ hx inv haccepted hn rfl rfl hstart
  obtain ⟨states, blocks, hrun⟩ := exists_runsThrough hx haccepted
  exact ⟨_, hrun.reached (n + 1) hn, hrun.writeFlags hx inv hn hstart⟩

theorem wordOf_false (n : ℕ) : (wordOf n fun _ => false) = List.replicate n false := by
  rw [wordOf, List.map_const', List.length_range]

/-- In normal mode the strobe word is the zero word in the two windows and the toggle pattern elsewhere
(41_serdes.md R124). -/
theorem dqsWordOf_normal {x : Phy} (hnormal : leveling x = false) (pre post strobe : Bool) :
    dqsWordOf x pre post strobe =
      if pre = true ∨ post = true then zeroWord x.params else dqsPatternOf x.params := by
  split_ifs with hwindow
  · rw [dqsWordOf_window hnormal ((Bool.or_eq_true _ _).mpr hwindow)]
    exact wordOf_false _
  · exact dqsWordOf_toggle hnormal (Bool.eq_false_iff.mpr (mt (Bool.or_eq_true _ _).mp hwindow))

/-- A lone write enable at tick `m` as the history shows it. -/
theorem wrenAgo_of_lone {x : Phy} {inputs : List TickInput} {m n j : ℕ} (hn : n < inputs.length)
    (hj : j ≤ n) (h : ∀ k < inputs.length, wrenOf x (inputAt inputs k) = decide (k = m)) :
    wrenAgo x inputs n j = decide (n = m + j) := by
  rw [wrenAgo, decide_eq_true hj, Bool.true_and, h _ (by omega)]
  exact decide_eq_decide.mpr (by omega)

/-- Settles O53: the flags of R142, R144 and R145 over the history of a lone enable; in normal mode the strobe
word and the drive follow from them. -/
theorem loneWriteEnableOpensThreeTicks : Obligations.LoneWriteEnableOpensThreeTicks := by
  rintro s x inputs m n _ hx inv hinputs hmode rfl hcenter hn hhistory hlone
  obtain ⟨states, blocks, hrun⟩ := exists_runsThrough hx fun i hi => (hinputs i hi).1
  obtain ⟨-, hwl, -⟩ := inv.latency_bounds
  have hago {j : ℕ} (hj : j ≤ n) := wrenAgo_of_lone hn hj hlone
  obtain ⟨hoe, hpre, hpost⟩ := hrun.writeFlags hx inv hn (.inl hhistory)
  rw [centerOf, hcenter] at hpre hpost
  have hopen : (states (n + 1)).sig.oe =
      decide (m + x.settings.writeLatency ≤ n ∧ n ≤ m + x.settings.writeLatency + 2) := by
    rw [hoe, hago (by omega), hago (by omega), hago (by omega), ← Bool.decide_or, ← Bool.decide_or]
    exact decide_eq_decide.mpr (by omega)
  have hpreamble : (states (n + 1)).sig.dqsPre = decide (n + 1 = m + x.settings.writeLatency) := by
    rw [hpre, hago (by omega), hago (by omega), ← decide_not, ← Bool.decide_and]
    exact decide_eq_decide.mpr (by omega)
  have hpostamble : (states (n + 1)).sig.dqsPost = decide (n = m + x.settings.writeLatency + 3) := by
    rw [hpost, hago (by omega), hago (by omega), ← decide_not, ← Bool.decide_and]
    exact decide_eq_decide.mpr (by omega)
  have hnormal := hrun.leveling_eq_false hx hmode (fun i hi => (hinputs i hi).2) hn.le
  have hwires := hrun.wireTick hn
  have hoeDqs : (states (n + 1)).sig.oeDqs = (states (n + 1)).sig.oe := by
    rw [hwires.oeDqs, hwires.oe, oeDqsFlag, hnormal, Bool.or_false]
  refine ⟨_, hrun.reached (n + 1) hn, hopen, hpreamble, hpostamble, ?_, fun e he => ?_, ?_⟩
  · rw [hwires.dqs, dqsWordOf_normal hnormal, hpreamble, hpostamble, hrun.params_eq hx hn.le]
    simp only [decide_eq_true_eq]
  · rw [hwires.drive] at he
    obtain ⟨w, -, rfl⟩ := List.mem_map.mp he
    rfl
  · rw [hwires.drive, hoeDqs, hrun.params_eq hx hn.le]
    rfl

/-- Settles O54: in normal mode `rddata_valid` is the last position of `rd_sr` (`rdSr_last_eq_rdenAgo`). -/
theorem readEnableReturnsAsReadValid : Obligations.ReadEnableReturnsAsReadValid := by
  intro s x inputs n hx inv hinputs hmode hn hstart
  obtain ⟨states, blocks, hrun⟩ := exists_runsThrough hx fun i hi => (hinputs i hi).1
  have hnormal := hrun.leveling_eq_false hx hmode (fun i hi => (hinputs i hi).2) hn.le
  refine ⟨_, hrun.reached (n + 1) hn, ?_⟩
  rw [(hrun.wireTick hn).rddataValid, validFlag, hnormal, Bool.or_false, hrun.params_eq hx hn.le,
    hrun.settings_eq hx hn.le, hrun.rdSr_last_eq_rdenAgo hx inv hn hstart]

end Sys2Proof.Machine
end

/-! ## The Bitslip Aligner and its rotations (43_bitslip.md R160 to R165) -/

section
namespace Sys2Proof.Machine

theorem exec_bsRst_live {s : State} {x : Phy} (h : s.block = .live x) :
    exec .bsRst s = .next (s.withPhy (pulseRot x zeroed)) :=
  onLive_live h _

theorem exec_bsInc_live {s : State} {x : Phy} (h : s.block = .live x) :
    exec .bsInc s = .next (s.withPhy (pulseRot x (rotStep x.params))) :=
  onLive_live h _

/-! Pulses on the counters of the selected lanes -/

theorem pulseLanes_getD (select : Bits) (f : Nat → Nat) {v : List Nat} {lane : Nat}
    (hlane : lane < v.length) : (pulseLanes select f v).getD lane 0 =
      if bitAt select lane = true then f (v.getD lane 0) else v.getD lane 0 := by
  rw [List.getD_eq_getElem?_getD, pulseLanes_getElem?, List.getElem?_eq_getElem hlane, Option.map_some,
    Option.getD_some, List.getD_eq_getElem _ _ hlane]

/-- Pulses on the same lanes compose as the functions on one counter do. -/
theorem pulseLanes_pulseLanes (select : Bits) (f g : Nat → Nat) (v : List Nat) :
    pulseLanes select f (pulseLanes select g v) = pulseLanes select (f ∘ g) v := by
  refine List.ext_getElem (by simp) fun lane _ _ => ?_
  simp only [pulseLanes, List.getElem_mapIdx, Function.comp_apply]
  split_ifs <;> rfl

theorem pulseLanes_eq_self {select : Bits} {f : Nat → Nat} {v : List Nat} (h : ∀ c ∈ v, f c = c) :
    pulseLanes select f v = v := by
  refine List.ext_getElem (pulseLanes_length _ _ _) fun lane _ hlane => ?_
  simp only [pulseLanes, List.getElem_mapIdx, h _ (List.getElem_mem hlane), ite_self]

theorem pulseLanes_iterate (select : Bits) (f : Nat → Nat) (k : Nat) (v : List Nat) :
    (pulseLanes select f)^[k] v = pulseLanes select f^[k] v := by
  induction k with
  | zero => exact (pulseLanes_eq_self fun _ _ => rfl).symm
  | succ k ih => rw [Function.iterate_succ_apply', ih, pulseLanes_pulseLanes, ← Function.iterate_succ']

/-- `k` steps of a rotation add `k` modulo `2N` (43_bitslip.md R164). -/
theorem rotStep_iterate {p : Params} {r : Nat} (h : r < 2 * p.phases) (k : Nat) :
    (rotStep p)^[k] r = (r + k) % (2 * p.phases) := by
  induction k with
  | zero => exact (Nat.mod_eq_of_lt h).symm
  | succ k ih => rw [Function.iterate_succ_apply', ih, rotStep, Nat.mod_add_mod, Nat.add_assoc]

/-- Settles O13: both operations are a pulse on the rotations, which acts lane by lane (`pulseLanes_getD`). -/
theorem rotationPulsesActOnSelectedLanes : Obligations.RotationPulsesActOnSelectedLanes := by
  intro s x hx inv
  have hlane {l : Nat} (hl : l < lanesOf x.params) : l < x.rot.length := inv.rot.symm ▸ hl
  exact ⟨⟨pulseLanes x.laneSelect zeroed x.rot, exec_bsRst_live hx,
      (pulseLanes_length _ _ _).trans inv.rot, fun _ hl => pulseLanes_getD _ _ (hlane hl)⟩,
    ⟨pulseLanes x.laneSelect (rotStep x.params) x.rot, exec_bsInc_live hx,
      (pulseLanes_length _ _ _).trans inv.rot, fun _ hl => pulseLanes_getD _ _ (hlane hl)⟩⟩

/-! Scripts that repeat a line -/

/-- `k` ticks of one line act `k` times on the calibration state (30_encoding.md R81, R82). -/
theorem run_repeated_line {s : State} {x : Phy} {enable : Bool} {mask : Bits} {line : List Instr}
    (hx : s.block = .live x) (hlen : mask.length = lanesOf x.params)
    (hsub : line.Sublist (ctlCanon enable mask))
    (hwf : ∀ op ∈ line, op.wellFormed (variantOf x.params) = true) (hconflict : NoConflict line)
    {z : Phy} (hz : z.params = x.params) (base : TickInput) (k : Nat) :
    ∃ t y, Host.Core.run core k (s.withScript (scriptOf z base (List.replicate k line))) = .next t ∧
      t.block = .live y ∧ y.params = x.params ∧
      y.calibration = (calEffects x.params line)^[k] x.calibration := by
  induction k generalizing s x with
  | zero => exact ⟨_, x, rfl, hx, rfl, rfl⟩
  | succ k ih =>
    obtain ⟨u, w, hu, hw, hwp, hwcal⟩ := runTick_line
      (s := s.withScript (scriptOf z base (List.replicate k line))) hx hlen hsub hwf hconflict z hz base
    have hscript : u.script = scriptOf z base (List.replicate k line) := runTick_script hu
    obtain ⟨t, y, ht, hy, hyp, hycal⟩ := ih hw (by rwa [hwp]) (by rwa [hwp]) (hz.trans hwp.symm)
    refine ⟨t, y, ?_, hy, hyp.trans hwp, ?_⟩
    · rw [← hscript] at ht
      exact (run_succ_of_tick (s := s.withScript (scriptOf z base (List.replicate (k + 1) line)))
        rfl hu k).trans ht
    · rw [hycal, hwcal, hwp, Function.iterate_succ_apply]

theorem calEffects_bsInc_iterate (p : Params) (k : Nat) (c : Calibration) :
    (calEffects p [.bsInc])^[k] c =
      { c with rot := pulseLanes c.laneSelect (rotStep p)^[k] c.rot } := by
  rw [← pulseLanes_iterate]
  induction k generalizing c with
  | zero => rfl
  | succ k ih => rw [Function.iterate_succ_apply, ih]; rfl

/-- Settles O59: `2N` ticks of `BS_INC` are one pulse with the `2N`-fold step, which gives every value below
`2N` back. -/
theorem rotationIsCyclic : Obligations.RotationIsCyclic := by
  intro s x base hx inv
  obtain ⟨t, y, ht, hy, -, hcal⟩ := run_repeated_line (enable := false) (mask := x.laneSelect)
    (line := [.bsInc]) hx inv.laneSelect (by simp [ctlCanon]) (by simp [Instr.wellFormed])
    (by simp [NoConflict]) rfl base (2 * x.params.phases)
  refine ⟨t, y, ht, hy, ?_⟩
  rw [calEffects_bsInc_iterate] at hcal
  calc y.rot = pulseLanes x.laneSelect (rotStep x.params)^[2 * x.params.phases] x.rot :=
        congrArg Calibration.rot hcal
    _ = x.rot := pulseLanes_eq_self fun r hr => by
        rw [rotStep_iterate (inv.rotBound r hr), Nat.add_mod_right,
          Nat.mod_eq_of_lt (inv.rotBound r hr)]

/-! The aligner -/

theorem alignWord_length (n rot : Nat) (buffer : Bits) : (alignWord n rot buffer).length = 2 * n :=
  wordOf_length _ _

theorem selectedOf_wf (x : Phy) (group : List Bits) :
    WordsWf x.params.phases x.params.dataBits (selectedOf x group) :=
  wordsWf_map_range fun _ => alignWord_length _ _ _

/-- Settles O34: bit `k` of the selection is bit `r + k` of the previous group while that exists, and then a
low bit of the current group. -/
theorem rotationRecoversAnOffsetWord : Obligations.RotationRecoversAnOffsetWord := by
  intro n r prev current word hr hprev _ hword hhead htail
  refine bits_ext ((alignWord_length _ _ _).trans hword.symm) fun k hk => ?_
  rw [alignWord_length] at hk
  rw [bitAt_alignWord_alignBuffer hr hk hprev]
  split_ifs with hfirst
  · exact hhead k (by omega)
  · rw [htail _ (by omega), show 2 * n - r + (r + k - 2 * n) = k by omega]

/-- Settles O33: groups of the port's width are kept as they are (`groupsOf_eq_self`), the selection enters
`bs_pipe`, and `bitAt_selectedOf` says which bits it holds. -/
theorem alignerSelectsFromTheRotation : Obligations.AlignerSelectsFromTheRotation := by
  intro s x hx inv hgroup
  refine ⟨shiftIn (selectedOf x s.sig.group) x.bsPipe, shiftOut (selectedOf x s.sig.group) x.bsPipe,
    selectedOf x s.sig.group, ?_, (shiftIn_length _ _).trans inv.bsPipe, shiftIn_append_shiftOut _ _,
    selectedOf_wf _ _, fun pin hpin k hk => ?_⟩
  · rw [exec_bsAlign_live hx, groupsOf_eq_self hgroup]
    rfl
  · have hrot := getD_lt_of_forall_mem (Nat.zero_lt_of_lt hk) inv.rotBound (pin / 8)
    exact bitAt_selectedOf hpin hk hrot inv.bsPrev hgroup

end Sys2Proof.Machine
end

/-! ## What does not depend on the taps (44_delay_cal.md R181) -/

section
namespace Sys2Proof.Machine

/-- A block without its tap values. -/
def Phy.hideTaps (x : Phy) : Phy := { x with inTap := [], outTap := [] }

theorem Phy.hideTaps_eq_iff {x z : Phy} :
    x.hideTaps = z.hideTaps ↔ z = { x with inTap := z.inTap, outTap := z.outTap } := by
  constructor
  · intro h
    cases x
    cases z
    simp_all [Phy.hideTaps]
  · exact fun h => (congrArg Phy.hideTaps h).symm

/-- The block of a state without its tap values. -/
def Block.hideTaps : Block → Block
  | .live x => .live x.hideTaps
  | .failed e => .failed e

/-- What is left of a state when the tap values are hidden, with all that two runs with different taps need not
share: the script, the control word, and what stands around the block. -/
def State.hideTaps (s : State) : State :=
  { script := [], inp := { s.inp with ctl := [] }, args := referenceArgs, sig := s.sig, out := s.out, tick := 0,
    builds := 0, block := s.block.hideTaps }

/-- The four tap pulses and `CAL_NOP`: the operations of a tick that act on nothing but taps. -/
def actsOnTapsOnly : Instr → Bool
  | .rdlyRst | .rdlyInc | .wdlyRst | .wdlyInc | .calNop => true
  | _ => false

/-- An operation does the same with the taps hidden, if it does so on every live block. -/
theorem onLive_hideTaps {s : State} {f f' : Phy → Result}
    (h : ∀ x, f' x.hideTaps = mapNext State.hideTaps (f x)) :
    onLive s.hideTaps f' = mapNext State.hideTaps (onLive s f) := by
  cases hb : s.block with
  | live x =>
    have hhidden : s.hideTaps.block = .live x.hideTaps := congrArg Block.hideTaps hb
    rw [onLive_live hb, onLive_live hhidden, h]
  | failed e =>
    have hhidden : s.hideTaps.block = .failed e := congrArg Block.hideTaps hb
    rw [onLive_failed hb, onLive_failed hhidden, mapNext]

/-- No other operation of a tick reads a tap. -/
theorem exec_hideTaps {i : Instr} (hi : ¬ IsConstruct i) (htaps : actsOnTapsOnly i = false) (s : State) :
    exec i s.hideTaps = mapNext State.hideTaps (exec i s) := by
  cases i with
  | resolve | sysLatency | phaseAssign | buildSettings => exact absurd (by simp [IsConstruct]) hi
  | rdlyRst | rdlyInc | wdlyRst | wdlyInc | calNop => cases htaps
  | bsRst | bsInc | sel wdata | wren | rden | serCmd | serDq | serDm | serDqs | tristate | serPipe | desDq
  | rdAssemble | wrTrack | oe | oeDqs | dqsPre | dqsPost | rdTrack | rdValid | bsAlign | rdLaneSelect
  | rdTapBase => exact onLive_hideTaps fun _ => rfl
  | wlevelStb | wlevelEn wdata =>
    exact onLive_hideTaps fun _ => by apply ifPresent_eq_mapNext; rfl
  | rdWlevelEn => exact onLive_hideTaps fun _ => by rw [apply_ite (mapNext State.hideTaps)]; rfl

/-- A tap pulse changes nothing but taps. -/
theorem exec_actsOnTapsOnly {i : Instr} {s t : State} (hi : actsOnTapsOnly i = true)
    (h : exec i s = .next t) : t.hideTaps = s.hideTaps := by
  cases i with
  | calNop =>
    obtain ⟨x, -, ht⟩ := onLive_next h
    cases ht
    rfl
  | rdlyRst | rdlyInc =>
    obtain ⟨x, hx, ht⟩ := onLive_next h
    cases ht
    simp only [State.hideTaps, hx]
    rfl
  | wdlyRst | wdlyInc =>
    obtain ⟨x, hx, hpresent⟩ := onLive_next h
    obtain ⟨-, ht⟩ := ifPresent_next hpresent
    cases ht
    simp only [State.hideTaps, hx]
    rfl
  | _ => cases hi

/-- With the taps hidden a sequence of operations goes as it does without its tap pulses. -/
theorem runOps_hideTaps {ops : List Instr} (hops : ∀ op ∈ ops, ¬ IsConstruct op) {s t : State}
    (h : runOps ops s = .next t) :
    runOps (ops.filter fun i => !actsOnTapsOnly i) s.hideTaps = .next t.hideTaps := by
  induction ops generalizing s with
  | nil => cases h; rfl
  | cons op rest ih =>
    obtain ⟨hop, hrest⟩ := List.forall_mem_cons.mp hops
    obtain ⟨u, hu, hr⟩ := runOps_cons_inv h
    cases htaps : actsOnTapsOnly op with
    | true =>
      rw [List.filter_cons_of_neg (by simp [htaps]), ← exec_actsOnTapsOnly htaps hu]
      exact ih hrest hr
    | false =>
      have hhidden : exec op s.hideTaps = .next u.hideTaps := by rw [exec_hideTaps hop htaps, hu, mapNext]
      rw [List.filter_cons_of_pos (by simp [htaps]), runOps_cons_next hhidden]
      exact ih hrest hr

/-! Two ticks that differ in tap values and tap pulses only -/

/-- Control words that agree in all but the four tap pulses. -/
def SameButTapPulses (w u : Bits) : Prop :=
  ∀ c, c ≠ 0 → c ≠ 1 → c ≠ 4 → c ≠ 5 → bitAt u c = bitAt w c

/-- The four bits are those of the tap pulses (30_encoding.md R71). -/
theorem ctlIndex_of_not_actsOnTapsOnly {enable : Bool} {mask : Bits} {i : Instr}
    (hi : i ∈ ctlCanon enable mask) (htaps : actsOnTapsOnly i = false) :
    ctlIndex i ≠ 0 ∧ ctlIndex i ≠ 1 ∧ ctlIndex i ≠ 4 ∧ ctlIndex i ≠ 5 := by
  simp only [ctlCanon, List.mem_cons, List.not_mem_nil, or_false] at hi
  rcases hi with rfl | rfl | rfl | rfl | rfl | rfl | rfl | rfl | rfl <;>
    simp_all [ctlIndex, actsOnTapsOnly]

theorem filter_orCalNop (ops : List Instr) :
    (orCalNop ops).filter (fun i => !actsOnTapsOnly i) = ops.filter fun i => !actsOnTapsOnly i := by
  cases ops <;> rfl

theorem filter_ctlOps_of_sameButTapPulses {v : Variant} {w u : Bits} (h : SameButTapPulses w u) :
    (ctlOps v u).filter (fun i => !actsOnTapsOnly i) =
      (ctlOps v w).filter fun i => !actsOnTapsOnly i := by
  have hmask : selWdata v u = selWdata v w := by
    unfold selWdata
    exact congrArg (wordOf v.lanes) (funext fun l => h _ (by omega) (by omega) (by omega) (by omega))
  rw [ctlOps_eq_filter (fun _ => h 8 (by omega) (by omega) (by omega) (by omega)) fun _ => hmask,
    ctlOps_eq_filter_self v w, List.filter_filter, List.filter_filter]
  refine List.filter_congr fun i hi => ?_
  cases htaps : actsOnTapsOnly i with
  | true => rfl
  | false =>
    obtain ⟨h0, h1, h4, h5⟩ := ctlIndex_of_not_actsOnTapsOnly hi htaps
    rw [h _ h0 h1 h4 h5]

theorem filter_schedule_congr {p : Instr → Bool} {cal cal' : List Instr} (h : cal.filter p = cal'.filter p)
    (bus flow : List Instr) : (schedule bus flow cal).filter p = (schedule bus flow cal').filter p := by
  simp only [schedule, List.filter_append, List.filter_comm p, h]

/-- Inputs that agree in all but the four tap pulses (44_delay_cal.md R181). -/
def SameInputButTapPulses (i j : TickInput) : Prop :=
  ∃ w, j = { i with ctl := w } ∧ SameButTapPulses i.ctl w

/-- Apart from the tap pulses, both ticks run the same operations. -/
theorem decodeTick_sameButTapPulses {x z : Phy} {i j : TickInput} {ops ops' : List Instr}
    (hhidden : x.hideTaps = z.hideTaps) (hinput : SameInputButTapPulses i j)
    (hx : decodeTick x i = .ok ops) (hz : decodeTick z j = .ok ops') :
    (ops'.filter fun op => !actsOnTapsOnly op) = ops.filter fun op => !actsOnTapsOnly op := by
  obtain ⟨w, rfl, hctl⟩ := hinput
  have hparams : z.params = x.params := (congrArg Phy.params hhidden).symm
  have hsettings : z.settings = x.settings := (congrArg Phy.settings hhidden).symm
  obtain ⟨bus, cal, hcal, hbus, rfl⟩ := decodeTick_ok hx
  obtain ⟨bus', cal', hcal', hbus', rfl⟩ := decodeTick_ok hz
  rw [hparams] at hcal' hbus'
  obtain rfl : bus' = bus := Except.ok.inj (hbus'.symm.trans hbus)
  have hflow : flowWord z { i with ctl := w } = flowWord x i := by
    simp only [flowWord, wrenOf, rdenOf, phaseAt, hsettings]
  obtain ⟨-, rfl⟩ := decodeCtl_ok hcal
  obtain ⟨-, rfl⟩ := decodeCtl_ok hcal'
  rw [hflow]
  refine filter_schedule_congr ?_ _ _
  rw [filter_orCalNop, filter_orCalNop, filter_ctlOps_of_sameButTapPulses hctl]

theorem beginTick_hideTaps {s u : State} {i j : TickInput} (hblock : u.block.hideTaps = s.block.hideTaps)
    (hout : u.out = s.out) (hinput : SameInputButTapPulses i j) :
    (beginTick u j).hideTaps = (beginTick s i).hideTaps := by
  obtain ⟨w, rfl, -⟩ := hinput
  simp [beginTick, State.hideTaps, initialBus, hblock, hout]

/-- Two completed ticks that differ in tap values and tap pulses only have equal outputs and end in blocks that
differ in tap values only. -/
theorem runTick_sameButTaps {s u t v : State} {x z y q : Phy} {i j : TickInput} (hx : s.block = .live x)
    (hz : u.block = .live z) (hhidden : x.hideTaps = z.hideTaps) (hout : u.out = s.out)
    (hinput : SameInputButTapPulses i j) (ht : runTick s i = .next t) (hv : runTick u j = .next v)
    (hy : t.block = .live y) (hq : v.block = .live q) :
    v.out = t.out ∧ y.hideTaps = q.hideTaps := by
  obtain ⟨x', ops, t', hx', hops, hrun, rfl⟩ := runTick_next ht
  cases hx.symm.trans hx'
  obtain ⟨z', ops', v', hz', hops', hrun', rfl⟩ := runTick_next hv
  cases hz.symm.trans hz'
  have hblock : u.block.hideTaps = s.block.hideTaps := by
    rw [hx, hz, Block.hideTaps, Block.hideTaps, hhidden]
  have hleft := runOps_hideTaps (decodeTick_not_isConstruct hops) hrun
  have hright := runOps_hideTaps (decodeTick_not_isConstruct hops') hrun'
  rw [decodeTick_sameButTapPulses hhidden hinput hops hops', beginTick_hideTaps hblock hout hinput,
    hleft] at hright
  have hend : t'.hideTaps = v'.hideTaps := Host.Outcome.next.inj hright
  have hblocks : t'.block.hideTaps = v'.block.hideTaps := congrArg State.block hend
  rw [show t'.block = .live y from hy, show v'.block = .live q from hq] at hblocks
  exact ⟨(congrArg State.out hend).symm, Block.live.inj hblocks⟩

namespace RunsThrough
variable {s u : State} {x z : Phy} {a b : List TickInput} {states states' : ℕ → State}
  {blocks blocks' : ℕ → Phy}

theorem states_zero (hrun : RunsThrough s a states blocks) : states 0 = withTicks s a :=
  (Host.Outcome.next.inj ((afterTicks_zero s a).symm.trans (hrun.reached 0 (Nat.zero_le _)))).symm

/-- Two runs that differ in tap values and tap pulses only: after every tick equal outputs, and blocks that
differ in tap values only. -/
theorem sameButTaps (hrun : RunsThrough s a states blocks) (hrun' : RunsThrough u b states' blocks')
    (hx : s.block = .live x) (hz : u.block = .live z) (hhidden : x.hideTaps = z.hideTaps)
    (hout : u.out = s.out) (hlen : a.length = b.length)
    (hinput : ∀ j < a.length, SameInputButTapPulses (inputAt a j) (inputAt b j)) {k : ℕ}
    (hk : k ≤ a.length) :
    (states' k).out = (states k).out ∧ (blocks k).hideTaps = (blocks' k).hideTaps := by
  induction k with
  | zero =>
    rw [hrun.states_zero, hrun'.states_zero, hrun.blocks_zero hx, hrun'.blocks_zero hz]
    exact ⟨hout, hhidden⟩
  | succ k ih =>
    have hk' : k + 1 ≤ b.length := hlen ▸ hk
    obtain ⟨hout, hhidden⟩ := ih (Nat.le_of_succ_le hk)
    obtain ⟨script, htick⟩ := hrun.tick k hk
    obtain ⟨script', htick'⟩ := hrun'.tick k hk'
    exact runTick_sameButTaps (s := (states k).withScript script) (u := (states' k).withScript script')
      (hrun.live k (Nat.le_of_succ_le hk)) (hrun'.live k (Nat.le_of_succ_le hk')) hhidden hout
      (hinput k hk) htick htick' (hrun.live (k + 1) hk) (hrun'.live (k + 1) hk')

end RunsThrough

/-- Settles O57: with the taps hidden both runs are the same run, for no operation but the tap pulses reads or
writes a tap (`exec_hideTaps`, `exec_actsOnTapsOnly`). -/
theorem tapsDoNotReachTheDatapath : Obligations.TapsDoNotReachTheDatapath := by
  intro s u x z a b k hx hz _ _ hsame hout hlen hk ha hb hinput
  obtain ⟨states, blocks, hrun⟩ := exists_runsThrough hx ha
  obtain ⟨states', blocks', hrun'⟩ := exists_runsThrough hz hb
  obtain ⟨houtk, hhidden⟩ :=
    hrun.sameButTaps hrun' hx hz (Phy.hideTaps_eq_iff.mpr hsame) hout hlen hinput hk
  have hk' : k ≤ b.length := hlen ▸ hk
  exact ⟨_, _, _, _, hrun.reached k hk, hrun'.reached k hk', houtk, hrun.live k hk, hrun'.live k hk',
    Phy.hideTaps_eq_iff.mp hhidden⟩

end Sys2Proof.Machine
end

/-! ## The delay calibration registers (44_delay_cal.md R172 to R183) -/

section
namespace Sys2Proof.Machine

/-! One rule for each operation -/

section
variable {s : State} {x : Phy} (h : s.block = .live x)
include h

theorem exec_rdlyRst_live : exec .rdlyRst s = .next (s.withPhy (pulseInTap x zeroed)) :=
  onLive_live h _

theorem exec_rdlyInc_live : exec .rdlyInc s = .next (s.withPhy (pulseInTap x (tapStep x.params))) :=
  onLive_live h _

theorem exec_wdlyRst_live :
    exec .wdlyRst s = ifPresent x.params.hasOdelay (.next (s.withPhy (pulseOutTap x zeroed))) :=
  onLive_live h _

theorem exec_wdlyInc_live : exec .wdlyInc s =
    ifPresent x.params.hasOdelay (.next (s.withPhy (pulseOutTap x (tapStep x.params)))) :=
  onLive_live h _

theorem exec_sel_live (mask : Bits) : exec (.sel mask) s = .next (s.withPhy (writeLaneSelect x mask)) :=
  onLive_live h _

theorem exec_calNop_live : exec .calNop s = .next s :=
  onLive_live h _

theorem exec_rdLaneSelect_live : exec .rdLaneSelect s = .next (putBus s (natOfBits x.laneSelect)) :=
  onLive_live h _

theorem exec_rdWlevelEn_live : exec .rdWlevelEn s =
    if x.params.hasWlevel then .next (putBus s x.wlevelEn.toNat) else .refused .absentRegister :=
  onLive_live h _

theorem exec_rdTapBase_live : exec .rdTapBase s = .next (putBus s x.params.tapBase) :=
  onLive_live h _

end

/-- A vector as a number has the bits of the vector (00_scope.md R13). -/
theorem testBit_natOfBits (v : Bits) (l : ℕ) : (natOfBits v).testBit l = bitAt v l := by
  induction v generalizing l with
  | nil => exact Nat.zero_testBit l
  | cons b v ih =>
    have hbit : natOfBits (b :: v) = Nat.bit b (natOfBits v) := by
      rw [Nat.bit_val, natOfBits, Nat.add_comm]
    rw [hbit]
    cases l with
    | zero => exact Nat.testBit_bit_zero b _
    | succ l => exact (Nat.testBit_bit_succ l b _).trans (ih l)

/-- Settles O11: both operations are a pulse on the input taps, which acts lane by lane (`pulseLanes_getD`). -/
theorem inputTapPulsesActOnSelectedLanes : Obligations.InputTapPulsesActOnSelectedLanes := by
  intro s x hx inv
  have hlane {l : ℕ} (hl : l < lanesOf x.params) : l < x.inTap.length := inv.inTap.symm ▸ hl
  exact ⟨⟨_, exec_rdlyRst_live hx, (pulseLanes_length _ _ _).trans inv.inTap,
      fun _ hl => pulseLanes_getD _ _ (hlane hl)⟩,
    ⟨_, exec_rdlyInc_live hx, (pulseLanes_length _ _ _).trans inv.inTap,
      fun _ hl => pulseLanes_getD _ _ (hlane hl)⟩⟩

/-- Settles O12: with `HAS_ODELAY` both operations are a pulse on the output taps, without it `ifPresent`
refuses them. -/
theorem outputTapPulsesActOnSelectedLanes : Obligations.OutputTapPulsesActOnSelectedLanes := by
  intro s x hx inv
  rw [exec_wdlyRst_live hx, exec_wdlyInc_live hx]
  refine ⟨fun hodelay => ?_, fun hodelay => ?_⟩
  · have hlen : x.outTap.length = lanesOf x.params := by rw [inv.outTap, if_pos hodelay]
    have hlane {l : ℕ} (hl : l < lanesOf x.params) : l < x.outTap.length := hlen.symm ▸ hl
    rw [hodelay, ifPresent_true, ifPresent_true]
    exact ⟨⟨_, rfl, (pulseLanes_length _ _ _).trans hlen, fun _ hl => pulseLanes_getD _ _ (hlane hl)⟩,
      ⟨_, rfl, (pulseLanes_length _ _ _).trans hlen, fun _ hl => pulseLanes_getD _ _ (hlane hl)⟩⟩
  · rw [hodelay]
    exact ⟨ifPresent_false _, ifPresent_false _⟩

/-- Settles O14: a mask as wide as the register is kept whole (`fitBits_eq_self`). -/
theorem selWritesTheMaskAndCalNopNothing : Obligations.SelWritesTheMaskAndCalNopNothing := by
  intro s x hx
  refine ⟨fun m hm => ?_, exec_calNop_live hx⟩
  rw [exec_sel_live hx, writeLaneSelect, fitBits_eq_self hm]
  rfl

/-- Settles O16: each read puts its stored value on the bus, the mask as the number with its bits. -/
theorem busReadsReturnStoredValues : Obligations.BusReadsReturnStoredValues := by
  intro s x hx
  refine ⟨⟨_, exec_rdLaneSelect_live hx, testBit_natOfBits x.laneSelect⟩, fun hlevel => ?_,
    fun hlevel => ?_, exec_rdTapBase_live hx⟩
  · rw [exec_rdWlevelEn_live hx, if_pos hlevel]
    cases x.wlevelEn <;> rfl
  · rw [exec_rdWlevelEn_live hx, hlevel, if_neg Bool.false_ne_true]

/-- Settles O47: each counter after the tick is the one before it under its pulses, and these act on selected
lanes only. -/
theorem unselectedLanesKeepTheirCalibration : Obligations.UnselectedLanesKeepTheirCalibration := by
  intro s t x y i l hx h hy hmask
  obtain ⟨-, hin, hout, hrot, -⟩ := runTick_calibration_elements hx h hy
  rw [hin, hout, hrot]
  exact ⟨pulsed_getElem?_of_not_selected hmask .., pulsed_getElem?_of_not_selected hmask ..,
    pulsed_getElem?_of_not_selected hmask ..⟩

/-! `rdly.set`, `wdly.set` and `bs.set` (30_encoding.md R82) -/

theorem noConflict_singleton (i : Instr) : NoConflict [i] := by
  simp only [NoConflict, List.mem_singleton]
  refine ⟨?_, ?_, ?_⟩ <;> rintro ⟨rfl, h⟩ <;> cases h

/-- A tick of one operation and `k` ticks of another act on the calibration state one after another. -/
theorem run_reset_then_repeat {s : State} {x : Phy} {rst inc : Instr} (hx : s.block = .live x)
    (inv : PhyInv x) (hrst : rst ∈ ctlCanon false x.laneSelect) (hinc : inc ∈ ctlCanon false x.laneSelect)
    (hrstwf : rst.wellFormed (variantOf x.params) = true)
    (hincwf : inc.wellFormed (variantOf x.params) = true) (base : TickInput) (k : ℕ) :
    ∃ t y, Host.Core.run core (k + 1) (s.withScript (scriptOf x base ([rst] :: List.replicate k [inc]))) =
        .next t ∧ t.block = .live y ∧
      y.calibration = (calEffects x.params [inc])^[k] (calEffects x.params [rst] x.calibration) := by
  obtain ⟨u, w, hu, hw, hwp, hwcal⟩ := runTick_line
    (s := s.withScript (scriptOf x base (List.replicate k [inc]))) hx inv.laneSelect
    (List.singleton_sublist.mpr hrst) (by simpa using hrstwf) (noConflict_singleton rst) x rfl base
  have hscript : u.script = scriptOf x base (List.replicate k [inc]) := runTick_script hu
  obtain ⟨t, y, ht, hy, -, hycal⟩ := run_repeated_line hw (by rw [hwp, inv.laneSelect])
    (List.singleton_sublist.mpr hinc) (by simpa [hwp] using hincwf) (noConflict_singleton inc) hwp.symm base k
  rw [← hscript] at ht
  refine ⟨t, y, ?_, hy, by rw [hycal, hwcal, hwp]⟩
  exact (run_succ_of_tick (s := s.withScript (scriptOf x base ([rst] :: List.replicate k [inc]))) rfl hu
    k).trans ht

/-- A counter that is zeroed and stepped `k` times on the selected lanes. -/
theorem getD_reset_then_stepped {select : Bits} {step : ℕ → ℕ} {k value lane : ℕ} {v : List ℕ}
    (hlane : lane < v.length) (hstep : step^[k] 0 = value) :
    (pulseLanes select step^[k] (pulseLanes select zeroed v)).getD lane 0 =
      if bitAt select lane = true then value else v.getD lane 0 := by
  rw [pulseLanes_pulseLanes, pulseLanes_getD _ _ hlane, Function.comp_apply, zeroed, hstep]

/-- `k` steps of a tap add `k` modulo `2^TAP_BITS` (44_delay_cal.md R175, R183). -/
theorem tapStep_iterate {p : Params} {v : ℕ} (h : v < 2 ^ p.tapBits) (k : ℕ) :
    (tapStep p)^[k] v = (v + k) % 2 ^ p.tapBits := by
  induction k with
  | zero => exact (Nat.mod_eq_of_lt h).symm
  | succ k ih => rw [Function.iterate_succ_apply', ih, tapStep, Nat.mod_add_mod, Nat.add_assoc]

theorem tapStep_iterate_zero (p : Params) (k : ℕ) : (tapStep p)^[k] 0 = k % 2 ^ p.tapBits := by
  rw [tapStep_iterate (Nat.two_pow_pos _), Nat.zero_add]

theorem calEffects_rdlyInc_iterate (p : Params) (k : ℕ) (c : Calibration) :
    (calEffects p [.rdlyInc])^[k] c =
      { c with inTap := pulseLanes c.laneSelect (tapStep p)^[k] c.inTap } := by
  have hpulse : Function.Semiconj (fun v => { c with inTap := v })
      (pulseLanes c.laneSelect (tapStep p)) (calEffects p [.rdlyInc]) := fun _ => rfl
  rw [← pulseLanes_iterate]
  exact (hpulse.iterate_right k c.inTap).symm

theorem calEffects_wdlyInc_iterate (p : Params) (k : ℕ) (c : Calibration) :
    (calEffects p [.wdlyInc])^[k] c =
      { c with outTap := pulseLanes c.laneSelect (tapStep p)^[k] c.outTap } := by
  have hpulse : Function.Semiconj (fun v => { c with outTap := v })
      (pulseLanes c.laneSelect (tapStep p)) (calEffects p [.wdlyInc]) := fun _ => rfl
  rw [← pulseLanes_iterate]
  exact (hpulse.iterate_right k c.outTap).symm

/-- Settles O58: each script zeroes its counter on the selected lanes and then steps it `K` times
(`run_reset_then_repeat`), which leaves `K` modulo the width there (`getD_reset_then_stepped`). -/
theorem setScriptsReachTheirValue : Obligations.SetScriptsReachTheirValue := by
  intro s x base k hx inv
  refine ⟨?_, ?_, fun hodelay => ?_⟩
  · obtain ⟨t, y, ht, hy, hcal⟩ := run_reset_then_repeat (rst := .rdlyRst) (inc := .rdlyInc) hx inv
      (by simp [ctlCanon]) (by simp [ctlCanon]) rfl rfl base k
    rw [calEffects_rdlyInc_iterate] at hcal
    refine ⟨t, y, ht, hy, fun l hl => ?_⟩
    rw [show y.inTap = _ from congrArg Calibration.inTap hcal]
    exact getD_reset_then_stepped (inv.inTap.symm ▸ hl) (tapStep_iterate_zero x.params k)
  · obtain ⟨t, y, ht, hy, hcal⟩ := run_reset_then_repeat (rst := .bsRst) (inc := .bsInc) hx inv
      (by simp [ctlCanon]) (by simp [ctlCanon]) rfl rfl base k
    rw [calEffects_bsInc_iterate] at hcal
    refine ⟨t, y, ht, hy, fun l hl => ?_⟩
    have hlane : l < x.rot.length := inv.rot.symm ▸ hl
    have hpos : 0 < 2 * x.params.phases := Nat.zero_lt_of_lt (inv.rotBound _ (List.getElem_mem hlane))
    rw [show y.rot = _ from congrArg Calibration.rot hcal]
    exact getD_reset_then_stepped hlane ((rotStep_iterate hpos k).trans (by rw [Nat.zero_add]))
  · obtain ⟨t, y, ht, hy, hcal⟩ := run_reset_then_repeat (rst := .wdlyRst) (inc := .wdlyInc) hx inv
      (by simp [ctlCanon]) (by simp [ctlCanon]) hodelay hodelay base k
    rw [calEffects_wdlyInc_iterate] at hcal
    have hlen : x.outTap.length = lanesOf x.params := by rw [inv.outTap, if_pos hodelay]
    refine ⟨t, y, ht, hy, fun l hl => ?_⟩
    rw [show y.outTap = _ from congrArg Calibration.outTap hcal]
    exact getD_reset_then_stepped (hlen.symm ▸ hl) (tapStep_iterate_zero x.params k)

end Sys2Proof.Machine
end

/-! ## Write leveling (45_write_leveling.md R190 to R196) -/

section
namespace Sys2Proof.Machine

/-! The two operations -/

section
variable {s : State} {x : Phy} (h : s.block = .live x)
include h

theorem exec_wlevelEn_live (enable : Bool) : exec (.wlevelEn enable) s =
    ifPresent x.params.hasWlevel (.next (s.withPhy (writeWlevelEn x enable))) :=
  onLive_live h _

theorem exec_wlevelStb_live : exec .wlevelStb s =
    ifPresent x.params.hasWlevel
      (.next (s.withSig { s.sig with strobe := s.sig.strobe || leveling x })) :=
  onLive_live h _

end

theorem leveling_eq_wlevelEn {x : Phy} (h : x.params.hasWlevel = true) : leveling x = x.wlevelEn := by
  rw [leveling, h, Bool.true_and]

/-- Settles O15: with the leveling controller the pulse adds the mode to the strobe wire, which is 1 in leveling
mode and the wire itself outside it; without the controller `ifPresent` refuses both operations. -/
theorem levelingOperationsWriteModeAndStrobe : Obligations.LevelingOperationsWriteModeAndStrobe := by
  intro s x hx
  simp only [exec_wlevelEn_live hx, exec_wlevelStb_live hx]
  refine ⟨fun hpresent => ?_, fun habsent => ?_⟩
  · rw [leveling_eq_wlevelEn hpresent, hpresent]
    refine ⟨fun _ => rfl, fun hmode => ?_, fun hmode => ?_⟩
    · rw [hmode, Bool.or_true]
      rfl
    · rw [hmode, Bool.or_false]
      rfl
  · rw [habsent]
    exact ⟨fun _ => rfl, rfl⟩

/-! The strobe wire through a tick: only the pulse of `CTL[6]` reaches it, in the mode of the pre-state -/

theorem exec_strobe {i : Instr} {s t : State} (hi : ¬ IsConstruct i) (hstb : i ≠ .wlevelStb)
    (h : exec i s = .next t) : t.sig.strobe = s.sig.strobe := by
  cases i with
  | resolve | sysLatency | phaseAssign | buildSettings => exact absurd (by simp [IsConstruct]) hi
  | wlevelStb => exact absurd rfl hstb
  | wdlyRst | wdlyInc | wlevelEn enable =>
    obtain ⟨x, -, hx⟩ := onLive_next h
    obtain ⟨-, ht⟩ := ifPresent_next hx
    cases ht
    rfl
  | rdWlevelEn =>
    obtain ⟨x, -, hread⟩ := onLive_next h
    split at hread
    · cases hread
      rfl
    · cases hread
  | _ =>
    obtain ⟨x, -, hx⟩ := onLive_next h
    cases hx
    rfl

theorem runOps_strobe {ops : List Instr} (hops : ∀ op ∈ ops, ¬ IsConstruct op ∧ op ≠ .wlevelStb)
    {s t : State} (h : runOps ops s = .next t) : t.sig.strobe = s.sig.strobe :=
  runOps_foldl (R := fun v (_ : Unit) => v.sig.strobe = s.sig.strobe) (effect := fun _ _ => ())
    (fun hop hv hexec => (exec_strobe hop.1 hop.2 hexec).trans hv) hops (a := ()) rfl h

theorem runOps_leavesBlock {ops : List Instr} (hops : ∀ op ∈ ops, leavesBlock op = true) {s t : State}
    (h : runOps ops s = .next t) : t.block = s.block :=
  runOps_foldl (R := fun v (_ : Unit) => v.block = s.block) (effect := fun _ _ => ())
    (fun hop hv hexec => (exec_leavesBlock hop hexec).trans hv) hops (a := ()) rfl h

theorem runOps_strobePulse {s t : State} {x : Phy} (hx : s.block = .live x) {pulse : Bool}
    (h : runOps (if pulse then [.wlevelStb] else []) s = .next t) :
    t.sig.strobe = (s.sig.strobe || (pulse && leveling x)) := by
  cases pulse with
  | false =>
    cases h
    rw [Bool.false_and, Bool.or_false]
  | true =>
    obtain ⟨u, hu, hend⟩ := runOps_cons_inv h
    rw [exec_wlevelStb_live hx] at hu
    obtain ⟨-, hnext⟩ := ifPresent_next hu
    cases hnext
    cases hend
    rw [Bool.true_and]
    rfl

theorem filter_beforeTick_orCalNop (ops : List Instr) :
    (orCalNop ops).filter beforeTick = ops.filter beforeTick := by
  cases ops <;> rfl

/-- Of an accepted control word only `CTL[6]` selects an operation before those of `TICK`. -/
theorem filter_beforeTick_of_decodeCtl {v : Variant} {w : Bits} {cal : List Instr}
    (h : decodeCtl v w = .ok cal) :
    cal.filter beforeTick = if bitAt w 6 then [.wlevelStb] else [] := by
  obtain ⟨-, rfl⟩ := decodeCtl_ok h
  rw [filter_beforeTick_orCalNop]
  simp [ctlOps, beforeTick, apply_ite (List.filter _)]

theorem schedule_eq_strobePulse (bus flow cal : List Instr) :
    schedule bus flow cal = (bus ++ flow) ++ (cal.filter beforeTick ++
      (tickOrder ++ cal.filter fun i => !beforeTick i)) := by
  simp only [schedule, List.append_assoc]

theorem ne_wlevelStb_of_bus_flow {v : Variant} {r : Option (BitVec 4)} {bus : List Instr} {w : BitVec 2}
    (hbus : busOps v r = .ok bus) : ∀ op ∈ bus ++ decodeFlow w, op ≠ .wlevelStb := by
  intro op hop
  rcases List.mem_append.mp hop with hop | hop
  · rcases isBusRead_of_busOps hbus op hop with rfl | rfl | rfl <;> nofun
  · rcases mem_decodeFlow hop with rfl | rfl <;> nofun

theorem ne_wlevelStb_of_tickOrder_after (cal : List Instr) :
    ∀ op ∈ tickOrder ++ cal.filter fun i => !beforeTick i, op ≠ .wlevelStb := by
  rintro _ hop rfl
  rcases List.mem_append.mp hop with hop | hop
  · revert hop
    decide
  · cases (List.mem_filter.mp hop).2

/-- What a completed tick leaves on the strobe wire (45_write_leveling.md R191, R192). -/
theorem runTick_strobe {s t : State} {x : Phy} {i : TickInput} (hx : s.block = .live x)
    (h : runTick s i = .next t) : t.sig.strobe = (bitAt i.ctl 6 && leveling x) := by
  obtain ⟨x', ops, u, hx', hops, hrun, rfl⟩ := runTick_next h
  cases hx.symm.trans hx'
  obtain ⟨bus, cal, hcal, hbus, rfl⟩ := decodeTick_ok hops
  have hconstruct := decodeTick_not_isConstruct hops
  have hleaves := leavesBlock_before hbus (flowWord x i) cal
  rw [schedule_eq_strobePulse] at hrun hconstruct
  obtain ⟨before, hbefore, hrest⟩ := runOps_append_inv hrun
  obtain ⟨strobed, hstrobed, hafter⟩ := runOps_append_inv hrest
  have hblock : before.block = .live x :=
    (runOps_leavesBlock (fun op hop => hleaves op (List.mem_append_left _ (List.mem_append_left _ hop)))
      hbefore).trans hx
  have hidle : before.sig.strobe = false :=
    runOps_strobe (s := beginTick s i)
      (fun op hop => ⟨hconstruct op (List.mem_append_left _ hop), ne_wlevelStb_of_bus_flow hbus op hop⟩)
      hbefore
  have hkept : u.sig.strobe = strobed.sig.strobe :=
    runOps_strobe (fun op hop => ⟨hconstruct op (List.mem_append_right _ (List.mem_append_right _ hop)),
      ne_wlevelStb_of_tickOrder_after cal op hop⟩) hafter
  rw [filter_beforeTick_of_decodeCtl hcal] at hstrobed
  rw [State.withTick_sig, hkept, runOps_strobePulse hblock hstrobed, hidle, Bool.false_or]

/-! Leveling mode -/

section
variable {x : Phy} (h : leveling x = true)
include h

theorem oeDqsFlag_of_leveling (oe : Bool) : oeDqsFlag x oe = true := by
  rw [oeDqsFlag, h, Bool.or_true]

theorem validFlag_of_leveling : validFlag x = true := by
  rw [validFlag, h, Bool.or_true]

theorem dqsWordOf_leveling (pre post strobe : Bool) : dqsWordOf x pre post strobe =
    if strobe = true then wlevelPatternOf x.params else List.replicate (2 * x.params.phases) false := by
  split_ifs with hstrobe
  · exact dqsWordOf_training h hstrobe
  · rw [dqsWordOf_leveling_quiet h (Bool.eq_false_iff.mpr hstrobe), wordOf_false]

end

section
variable (p : Params) (cmd : CmdWords) (dq dm : List Bits) (dqs : Bits) (oe oeDqs : Bool)

theorem padsOf_driveOf_dqs : (padsOf (driveOf p cmd dq dm dqs oe oeDqs)).dqs =
    List.replicate (lanesOf p) (presentPin { word := dqs, en := oeDqs }) :=
  List.map_replicate

theorem en_of_mem_driveOf_dq : ∀ e ∈ (driveOf p cmd dq dm dqs oe oeDqs).dq, e.en = oe :=
  List.forall_mem_map.mpr fun _ _ => rfl

end

/-- Settles O51: in leveling mode the strobe enable and the read-valid are forced and the strobe word is chosen by
the strobe wire, which is `CTL[6]` (`runTick_strobe`); the data enable is that of the writes in flight. -/
theorem levelingForcesStrobeAndReadValid : Obligations.LevelingForcesStrobeAndReadValid := by
  intro s x i hx inv haccepted hpresent hmode
  have hlevel : leveling x = true := (leveling_eq_wlevelEn hpresent).trans hmode
  obtain ⟨t, -, ht, -⟩ := runTick_of_accepted hx haccepted
  have hwires := runTick_wireTick hx ht
  have hoeDqs : t.sig.oeDqs = true := hwires.oeDqs.trans (oeDqsFlag_of_leveling hlevel _)
  have hstrobe : t.sig.strobe = bitAt i.ctl 6 := by
    rw [runTick_strobe hx ht, hlevel, Bool.and_true]
  refine ⟨t, ht, ?_, ?_, ?_⟩
  · rw [hwires.drive, padsOf_driveOf_dqs, hoeDqs, hwires.dqs, dqsWordOf_leveling hlevel, hstrobe]
    rfl
  · rw [hwires.rddataValid, validFlag_of_leveling hlevel]
  · rw [hwires.drive, ← oeFlag_eq_wrPos inv, ← hwires.oe]
    exact en_of_mem_driveOf_dq _ _ _ _ _ _ _

end Sys2Proof.Machine
end

/-! ## A step is a tick of the script or the idle one (46_system_tick.md R202, R204) -/

section
namespace Sys2Proof.Machine

/-- The tick that a step runs: the next one of the script, or the idle one when the script is empty. -/
theorem step_eq_runTick {s : State} {i : TickInput} {rest : List Stimulus}
    (h : s.script = .tick i :: rest ∨ (s.script = [] ∧ rest = [] ∧ i = idleInputOf s)) :
    step s = runTick (s.withScript rest) i := by
  rcases h with hnext | ⟨hempty, rfl, rfl⟩
  · exact step_tick hnext
  · have hsame : s.withScript [] = s := by
      rw [← hempty]
      rfl
    rw [hsame, step_idle hempty]

/-- Settles O38: `runTick` begins with the decoder, which schedules the operations in this order, and ends with
the tick boundary. -/
theorem stepRunsTheSelectedOperations : Obligations.StepRunsTheSelectedOperations := by
  intro s x i rest cal bus hx hscript hcal hbus
  have hread : busOps (variantOf x.params) i.busRead = .ok bus := by
    cases hr : i.busRead with
    | none =>
      simp only [hr] at hbus
      rw [hbus]
      rfl
    | some r =>
      simp only [hr] at hbus
      exact hbus
  have hops : decodeTick x i = .ok (schedule bus (decodeFlow (flowWord x i)) cal) := by
    simp only [decodeTick, hcal, hread]
  have htick : runTick (s.withScript rest) i =
      endTick (runOps (schedule bus (decodeFlow (flowWord x i)) cal) (beginTick (s.withScript rest) i)) := by
    rw [runTick, onLive_live (s := s.withScript rest) hx, hops]
  rw [step_eq_runTick hscript, htick]
  rfl

/-- Settles O41: the reference settings are those that the construction gives for the reference parameters. -/
theorem resetMeetsTheInvariant : Obligations.ResetMeetsTheInvariant := by
  have hpower : PhyInv (powerOnPhy 0 referenceParams referenceSettings) :=
    powerOnPhy_inv 0 (by decide) (by decide)
  refine ⟨fun x hx => ?_, _, rfl⟩
  cases hx
  exact hpower

end Sys2Proof.Machine
end

/-! ## The wires and outputs of a whole tick (46_system_tick.md R201, R202 steps 1 to 3) -/

section
namespace Sys2Proof.Machine

/-! Serial words of the command, address, data and mask pins -/

/-- Each of the three operations `SER_CMD`, `SER_DQ` and `SER_DM` writes its own words, and no other operation of a
tick does. -/
theorem exec_serialWords {i : Instr} {s t : State} {x : Phy} (hi : ¬ IsConstruct i) (hx : s.block = .live x)
    (h : exec i s = .next t) :
    t.sig.cmd = (if i = .serCmd then cmdWordsOf x.params s.inp else s.sig.cmd) ∧
      t.sig.dq = (if i = .serDq then dqWordsOf x.params s.inp else s.sig.dq) ∧
      t.sig.dm = (if i = .serDm then dmWordsOf x.params s.inp else s.sig.dm) := by
  cases i with
  | resolve | sysLatency | phaseAssign | buildSettings => exact absurd (by simp [IsConstruct]) hi
  | wdlyRst | wdlyInc | wlevelEn enable | wlevelStb =>
    obtain ⟨-, ht⟩ := ifPresent_next (onLive_next_of_live hx h)
    cases ht
    exact ⟨rfl, rfl, rfl⟩
  | rdWlevelEn =>
    have hread := onLive_next_of_live hx h
    split at hread
    · cases hread
      exact ⟨rfl, rfl, rfl⟩
    · cases hread
  | _ =>
    cases onLive_next_of_live hx h
    exact ⟨rfl, rfl, rfl⟩

/-- After a sequence with the three operations the words are those of the inputs. -/
theorem runOps_serialWords {ops : List Instr} (hops : ∀ op ∈ ops, ¬ IsConstruct op) {s t : State} {x : Phy}
    (hx : s.block = .live x) (h : runOps ops s = .next t) :
    t.sig.cmd = (if .serCmd ∈ ops then cmdWordsOf x.params s.inp else s.sig.cmd) ∧
      t.sig.dq = (if .serDq ∈ ops then dqWordsOf x.params s.inp else s.sig.dq) ∧
      t.sig.dm = (if .serDm ∈ ops then dmWordsOf x.params s.inp else s.sig.dm) := by
  induction ops generalizing s x with
  | nil =>
    cases h
    exact ⟨rfl, rfl, rfl⟩
  | cons op rest ih =>
    obtain ⟨hop, hrest⟩ := List.forall_mem_cons.mp hops
    obtain ⟨u, hu, hr⟩ := runOps_cons_inv h
    have hframe := exec_frame hop hx hu
    obtain ⟨y, hy, hparams, -⟩ := hframe.constants x hx
    obtain ⟨hcmd, hdq, hdm⟩ := exec_serialWords hop hx hu
    have htail := ih hrest hy hr
    rw [hparams, hframe.inp, hcmd, hdq, hdm] at htail
    simpa only [← ite_or, List.mem_cons, eq_comm (b := op), or_comm] using htail

theorem mem_schedule_of_mem_tickOrder {op : Instr} (h : op ∈ tickOrder) (bus flow cal : List Instr) :
    op ∈ schedule bus flow cal := by
  simp only [schedule, List.mem_append]
  exact .inl (.inr h)

/-- What a completed tick leaves on the words of the command, address, data and mask pins (41_serdes.md R121 to
R123). -/
theorem runTick_serialWords {s t : State} {x : Phy} {i : TickInput} (hx : s.block = .live x)
    (h : runTick s i = .next t) :
    t.sig.cmd = cmdWordsOf x.params i ∧ t.sig.dq = dqWordsOf x.params i ∧
      t.sig.dm = dmWordsOf x.params i := by
  obtain ⟨x', ops, u, hx', hops, hrun, rfl⟩ := runTick_next h
  cases hx.symm.trans hx'
  have hwords := runOps_serialWords (s := beginTick s i) (decodeTick_not_isConstruct hops) hx hrun
  obtain ⟨bus, cal, -, -, rfl⟩ := decodeTick_ok hops
  rwa [if_pos (mem_schedule_of_mem_tickOrder (by decide) _ _ _),
    if_pos (mem_schedule_of_mem_tickOrder (by decide) _ _ _),
    if_pos (mem_schedule_of_mem_tickOrder (by decide) _ _ _)] at hwords

/-! The strobe word and the drive -/

theorem leveling_iff {x : Phy} : leveling x = true ↔ x.params.hasWlevel = true ∧ x.wlevelEn = true :=
  Bool.and_eq_true_iff

theorem tickOe_eq {x : Phy} (inv : PhyInv x) : tickOe x = oeFlag x := (oeFlag_eq_wrPos inv false).symm

/-- The strobe wire is 1 in leveling mode only, and there it is `CTL[6]` (45_write_leveling.md R192). -/
theorem tickDqs_eq {x : Phy} (inv : PhyInv x) (i : TickInput) : tickDqs x i =
    dqsWordOf x (dqsPreFlag x (wrenOf x i)) (dqsPostFlag x (wrenOf x i)) (bitAt i.ctl 6 && leveling x) := by
  have hpre : tickPre x i = dqsPreFlag x (wrenOf x i) := (dqsPreFlag_eq_wrPos inv _).symm
  have hpost : tickPost x i = dqsPostFlag x (wrenOf x i) := (dqsPostFlag_eq_wrPos inv _).symm
  simp only [tickDqs, dqsWordOf, zeroWord, wordOf_false, hpre, hpost, ← leveling_iff, ← Bool.or_eq_true]
  cases leveling x with
  | true => rw [Bool.and_true]
  | false => rfl

/-- What a completed tick puts into the serializer delay line (41_serdes.md R120 to R126). -/
theorem runTick_drive {s t : State} {x : Phy} {i : TickInput} (hx : s.block = .live x) (inv : PhyInv x)
    (h : runTick s i = .next t) : t.sig.drive = tickDrive x i := by
  have hwires := runTick_wireTick hx h
  obtain ⟨hcmd, hdq, hdm⟩ := runTick_serialWords hx h
  rw [hwires.drive, hcmd, hdq, hdm, hwires.dqs, hwires.dqsPre, hwires.dqsPost, runTick_strobe hx h,
    ← tickDqs_eq inv, hwires.oeDqs, hwires.oe, ← tickOe_eq inv]
  rfl

/-! The bus value and the results of construction calls -/

/-- No operation of a tick but a bus read drives the bus. -/
theorem runOps_busValue_kept {ops : List Instr} (hops : ∀ op ∈ ops, ¬ IsConstruct op ∧ ¬ IsBusRead op)
    {s t : State} (h : runOps ops s = .next t) : t.out.busValue = s.out.busValue := by
  have hbus : runOps ops s = mapNext (State.withBus · s.inp.busRead s.out.busValue) (runOps ops s) :=
    runOps_withBus hops s s.inp.busRead s.out.busValue
  rw [h] at hbus
  exact congrArg (fun u => u.out.busValue) (Host.Outcome.next.inj hbus)

theorem calRead_of_pulse_register {r : BitVec 4} (h0 : r ≠ 0#4) (h7 : r ≠ 7#4) (h9 : r ≠ 9#4) (x : Phy) :
    calRead x r.toNat = 0 := by
  have hne {n : BitVec 4} (hn : r ≠ n) : r.toNat ≠ n.toNat := BitVec.toNat_ne_iff_ne.mpr hn
  exact (if_neg (hne h0)).trans ((if_neg (hne h7)).trans (if_neg (hne h9)))

theorem exec_of_runOps_singleton {i : Instr} {s t : State} (h : runOps [i] s = .next t) :
    exec i s = .next t := by
  obtain ⟨u, hu, hend⟩ := runOps_cons_inv h
  cases hend
  exact hu

/-- The bus read of a tick puts the value of its register on the bus; the 0 there from the start is the value of a
pulse register (44_delay_cal.md R182). -/
theorem runOps_busOps_value {v : Variant} {r : Option (BitVec 4)} {bus : List Instr} {s t : State} {x : Phy}
    (hx : s.block = .live x) (hbus : busOps v r = .ok bus) (hstart : s.out.busValue = r.map fun _ => 0)
    (h : runOps bus s = .next t) : t.out.busValue = r.map fun n => calRead x n.toNat := by
  cases r with
  | none =>
    cases hbus
    cases h
    exact hstart
  | some r =>
    simp only [busOps, decode, decodeReg] at hbus
    split_ifs at hbus with habsent h0 h7 h9
    · cases hbus
      cases (exec_of_runOps_singleton h).symm.trans (exec_rdLaneSelect_live hx)
      rw [h0]
      rfl
    · cases hbus
      have hread := exec_of_runOps_singleton h
      rw [exec_rdWlevelEn_live hx] at hread
      split_ifs at hread
      cases hread
      rw [h7]
      rfl
    · cases hbus
      cases (exec_of_runOps_singleton h).symm.trans (exec_rdTapBase_live hx)
      rw [h9]
      rfl
    · cases hbus
      cases h
      rw [hstart, Option.map_some, Option.map_some, calRead_of_pulse_register h0 h7 h9]

/-- What a completed tick leaves on the bus (46_system_tick.md R201). -/
theorem runTick_busValue {s t : State} {x : Phy} {i : TickInput} (hx : s.block = .live x)
    (h : runTick s i = .next t) : t.out.busValue = i.busRead.map fun r => calRead x r.toNat := by
  obtain ⟨x', ops, u, hx', hops, hrun, rfl⟩ := runTick_next h
  cases hx.symm.trans hx'
  have hconstruct := decodeTick_not_isConstruct hops
  obtain ⟨bus, cal, hcal, hbus, rfl⟩ := decodeTick_ok hops
  rw [schedule_eq_append] at hrun hconstruct
  obtain ⟨read, hread, hrest⟩ := runOps_append_inv hrun
  have hquiet := not_isBusRead_of_schedule (w := flowWord x i) (not_isBusRead_of_decodeCtl hcal)
  have hkept : u.out.busValue = read.out.busValue :=
    runOps_busValue_kept
      (fun op hop => ⟨hconstruct op (List.mem_append_right _ hop), hquiet op hop⟩) hrest
  rw [State.withTick_out, hkept]
  exact runOps_busOps_value (s := beginTick s i) hx hbus rfl hread

/-- What the construction functions left among the outputs (log entry 6). -/
def Outputs.results (o : Outputs) : Option (Int × Int) × Option Int × Option (Int × Int) :=
  (o.resolved, o.sysLatency, o.phases)

theorem exec_results {i : Instr} {s t : State} (hi : ¬ IsConstruct i) (h : exec i s = .next t) :
    t.out.results = s.out.results := by
  cases i with
  | resolve | sysLatency | phaseAssign | buildSettings => exact absurd (by simp [IsConstruct]) hi
  | wdlyRst | wdlyInc | wlevelEn enable | wlevelStb =>
    obtain ⟨x, -, hx⟩ := onLive_next h
    obtain ⟨-, ht⟩ := ifPresent_next hx
    cases ht
    rfl
  | rdWlevelEn =>
    obtain ⟨x, -, hread⟩ := onLive_next h
    split at hread
    · cases hread
      rfl
    · cases hread
  | _ =>
    obtain ⟨x, -, hx⟩ := onLive_next h
    cases hx
    rfl

/-- A tick leaves the results of construction calls among the outputs. -/
theorem runTick_results {s t : State} {i : TickInput} (h : runTick s i = .next t) :
    t.out.results = s.out.results := by
  obtain ⟨x, ops, u, -, hops, hrun, rfl⟩ := runTick_next h
  exact runOps_foldl (R := fun v (_ : Unit) => v.out.results = s.out.results) (effect := fun _ _ => ())
    (fun hop hv hexec => (exec_results hop hexec).trans hv) (decodeTick_not_isConstruct hops)
    (s := beginTick s i) (t := u) (a := ()) rfl hrun

end Sys2Proof.Machine
end

/-! ## A tick is the simultaneous step function (46_system_tick.md R202, R204) -/

section
namespace Sys2Proof.Machine

/-! The registers of the model in the terms of the simultaneous step -/

/-- A shift register, position by position (10_state.md R30, R32). -/
theorem shiftIn_eq_map_range {line : Bits} {n : ℕ} (h : line.length = n) (b : Bool) :
    shiftIn b line = (List.range n).map fun p => if p = 0 then b else bitAt line (p - 1) := by
  change _ = wordOf n _
  refine bits_ext (by rw [shiftIn_length, wordOf_length, h]) fun p hp => ?_
  rw [shiftIn_length] at hp
  rw [bitAt_wordOf_of_lt _ (h ▸ hp)]
  cases p with
  | zero => exact bitAt_shiftIn hp b
  | succ p => exact bitAt_shiftIn_of_pos p.succ_pos hp b

/-- What leaves a delay line of a given depth (10_state.md R35 to R37). -/
theorem shiftOut_eq_ite {α : Type} {line : List α} {d : ℕ} (h : line.length = d) (entering default : α) :
    shiftOut entering line = if d = 0 then entering else line.getLastD default := by
  subst h
  rw [shiftOut, List.getLastD_eq_getLast?]
  cases line with
  | nil => rfl
  | cons y ys =>
    rw [List.getLast?_eq_some_getLast (List.cons_ne_nil y ys)]
    rfl

theorem pulsed_length (select : Bits) (rst inc : Bool) (step : ℕ → ℕ) (v : List ℕ) :
    (pulsed select rst inc step v).length = v.length := by
  cases rst <;> cases inc <;> simp [pulsed]

/-- A counter of one lane under its pulses, which do not come together. -/
theorem pulsed_getD {x : Phy} {rst inc : Bool} {m lane : ℕ} {v : List ℕ} (hlane : lane < v.length)
    (hconflict : ¬ (rst = true ∧ inc = true)) :
    (pulsed x.laneSelect rst inc (fun c => (c + 1) % m) v).getD lane 0 = tickCounter x m rst inc v lane := by
  cases rst with
  | true =>
    obtain rfl : inc = false := by simpa using hconflict
    simpa [tickCounter, pulsed, zeroed] using pulseLanes_getD x.laneSelect zeroed hlane
  | false =>
    cases inc with
    | true => simpa [tickCounter, pulsed] using pulseLanes_getD x.laneSelect (fun c => (c + 1) % m) hlane
    | false => simp [tickCounter, pulsed]

/-- The counters of all lanes under their pulses. -/
theorem pulsed_eq_map_tickCounter {x : Phy} {rst inc : Bool} {m n : ℕ} {v : List ℕ} (hlen : v.length = n)
    (hconflict : ¬ (rst = true ∧ inc = true)) :
    pulsed x.laneSelect rst inc (fun c => (c + 1) % m) v = (List.range n).map (tickCounter x m rst inc v) := by
  refine List.ext_getElem (by simp [pulsed_length, hlen]) fun lane hlane _ => ?_
  rw [List.getElem_map, List.getElem_range, ← List.getD_eq_getElem _ 0 hlane]
  exact pulsed_getD (by rwa [pulsed_length] at hlane) hconflict

/-- The output taps of a variant with and without `HAS_ODELAY` (10_state.md R25). -/
theorem pulsed_outTap {x : Phy} (inv : PhyInv x) {rst inc : Bool} (hconflict : ¬ (rst = true ∧ inc = true)) :
    pulsed x.laneSelect rst inc (tapStep x.params) x.outTap =
      if x.params.hasOdelay = true then
        (List.range (lanesOf x.params)).map (tickCounter x (2 ^ x.params.tapBits) rst inc x.outTap)
      else [] := by
  have hlen := inv.outTap
  split_ifs at hlen ⊢
  · exact pulsed_eq_map_tickCounter hlen hconflict
  · exact List.length_eq_zero_iff.mp ((pulsed_length _ _ _ _ _).trans hlen)

/-- The words of `lane_select` are as wide as the register (30_encoding.md R71). -/
theorem fitBits_selWdata (p : Params) (w : Bits) :
    fitBits (lanesOf p) (selWdata (variantOf p) w) = selWdata (variantOf p) w :=
  fitBits_eq_self (wordOf_length _ _)

/-! The groups on their way from the pins to the phase bus -/

section
variable {x : Phy} (inv : PhyInv x) (i : TickInput)
include inv

theorem shiftOut_desPipe : shiftOut (sampledOf x.params i) x.desPipe = tickGroups x i :=
  shiftOut_eq_ite inv.desPipe _ _

theorem tickGroups_wf : WordsWf x.params.phases x.params.dataBits (tickGroups x i) := by
  rw [← shiftOut_desPipe inv]
  rcases mem_shiftOut (sampledOf x.params i) x.desPipe with hsampled | hmem
  · rw [hsampled]
    exact sampledOf_wf _ _
  · exact inv.desGroups _ hmem

/-- The aligner's buffer read from the rotation on is first the previous group, then the current one
(46_system_tick.md R207(c)). -/
theorem selectedOf_tickGroups : selectedOf x (tickGroups x i) = tickSelected x i := by
  refine List.map_congr_left fun pin hmem => ?_
  have hpin := List.mem_range.mp hmem
  refine bits_ext (by rw [alignWord_length, wordOf_length]) fun k hk => ?_
  rw [alignWord_length] at hk
  have hrot := getD_lt_of_forall_mem (Nat.zero_lt_of_lt hk) inv.rotBound (pin / 8)
  rw [fitBits_eq_self (length_getD_of_wordsWf (tickGroups_wf inv i) hpin),
    bitAt_alignWord_alignBuffer hrot hk (length_getD_of_wordsWf inv.bsPrev hpin), bitAt_wordOf_of_lt _ hk]

theorem shiftOut_bsPipe : shiftOut (tickSelected x i) x.bsPipe = tickAligned x i := by
  have hdepth := bitslipDepth_pos_of_paramsLegal inv.legal
  rw [shiftOut_eq_ite inv.bsPipe _ [], tickAligned]
  exact if_congr (by omega) rfl rfl

end

/-! The block and the outputs after a tick -/

section
variable {s t : State} {x : Phy} {i : TickInput} (hx : s.block = .live x) (inv : PhyInv x)
  (h : runTick s i = .next t)
include hx inv h

/-- `X'` of a completed tick, register by register: calibration state, tracking registers, delay lines. -/
theorem runTick_block : t.block = .live (tickNext x i) := by
  obtain ⟨y, hy, hparams, hsettings, -⟩ := runTick_constants hx h
  obtain ⟨haccepted, -⟩ := runTick_calibration hx h hy
  obtain ⟨-, -, hconflict⟩ := ctlRefusal_eq_none_iff.mp haccepted
  obtain ⟨hrdly, hbs, hwdly⟩ := not_or.mp hconflict |>.imp_right not_or.mp
  obtain ⟨hsel, hin, hout, hrot, hlevel⟩ := runTick_calibration_elements hx h hy
  obtain ⟨hwr, htail, hrd⟩ := runTick_tracking hx h hy
  have hdata := runTick_dataTick hx h hy
  have hgroup := hdata.group.trans (shiftOut_desPipe inv i)
  have hselected := hdata.bsPipe
  rw [hgroup, selectedOf_tickGroups inv] at hselected
  have hnext : y = tickNext x i := by
    refine (Phy.mk.injEq ..).mpr ⟨hparams, hsettings, ?_, ?_, ?_, ?_, ?_, ?_, ?_, ?_, ?_, ?_, ?_, ?_⟩
    · rw [hsel, fitBits_selWdata]
    · exact hin.trans (pulsed_eq_map_tickCounter inv.inTap hrdly)
    · exact hout.trans (pulsed_outTap inv hwdly)
    · exact hrot.trans (pulsed_eq_map_tickCounter inv.rot hbs)
    · exact hlevel
    · exact hwr.trans (shiftIn_eq_map_range inv.wrSr _)
    · exact htail
    · exact hrd.trans (shiftIn_eq_map_range inv.rdSr _)
    · rw [hdata.bsPrev, hgroup, groupsOf_eq_self (tickGroups_wf inv i)]
    · rw [hdata.serPipe, runTick_drive hx inv h, shiftIn_eq_take, inv.serPipe]
    · rw [hdata.desPipe, shiftIn_eq_take, inv.desPipe]
    · rw [hselected, shiftIn_eq_take, inv.bsPipe]
  rw [hy, hnext]

/-- `O` of a completed tick. -/
theorem runTick_out : t.out = tickOut x i s.out := by
  obtain ⟨y, hy, -⟩ := runTick_constants hx h
  have hdata := runTick_dataTick hx h hy
  have hpads := hdata.pads
  rw [runTick_drive hx inv h, shiftOut_eq_ite inv.serPipe _ (tickDrive x i)] at hpads
  have hrddata := hdata.rddata
  rw [hdata.group, shiftOut_desPipe inv, selectedOf_tickGroups inv, shiftOut_bsPipe inv] at hrddata
  obtain ⟨hresolved, hrest⟩ := Prod.mk.inj (runTick_results h)
  obtain ⟨hlatency, hphases⟩ := Prod.mk.inj hrest
  exact (Outputs.mk.injEq ..).mpr ⟨hpads, hrddata, (runTick_wireTick hx h).rddataValid,
    runTick_busValue hx h, hresolved, hlatency, hphases⟩

end

/-- Settles O39: an accepted tick completes (`runTick_of_accepted`); its block is `X'` (`runTick_block`), its
outputs are `O` (`runTick_out`), and everything around the block stays (`runTick_frame`). -/
theorem tickIsTheSimultaneousStep : Obligations.TickIsTheSimultaneousStep := by
  intro s x i rest hx inv hscript haccepted
  obtain ⟨t, -, ht, -⟩ := runTick_of_accepted (s := s.withScript rest) hx haccepted
  have hblock := runTick_block (s := s.withScript rest) hx inv ht
  have hout := runTick_out (s := s.withScript rest) hx inv ht
  have hdrive := runTick_drive (s := s.withScript rest) hx inv ht
  obtain ⟨u, hframe, rfl⟩ := runTick_frame ht
  exact ⟨_, (step_tick hscript).trans ht, hblock, hout, hdrive, hframe.script, hframe.inp, hframe.args, rfl,
    hframe.builds⟩

end Sys2Proof.Machine
end

/-! ## The invariant (46_system_tick.md R204) -/

section
namespace Sys2Proof.Machine

/-! The words of a tick have the widths of their pins -/

theorem tickDqs_length {x : Phy} (inv : PhyInv x) (i : TickInput) :
    (tickDqs x i).length = 2 * x.params.phases := by
  rw [tickDqs_eq inv]
  exact dqsWordOf_length inv.legal _ _ _

theorem tickDrive_wf {x : Phy} (inv : PhyInv x) (i : TickInput) : SerEntryWf x.params (tickDrive x i) where
  cmd := cmdWordsOf_wf _ _
  dm := dmWordsOf_wf _ _
  dq := by
    obtain ⟨hcount, hwidth⟩ := dqWordsOf_wf x.params i
    exact ⟨(List.length_map _).trans hcount, List.forall_mem_map.mpr hwidth⟩
  dqs := ⟨List.length_replicate, fun e he => by
    rw [List.eq_of_mem_replicate he]
    exact tickDqs_length inv i⟩

theorem tickSelected_wf (x : Phy) (i : TickInput) :
    WordsWf x.params.phases x.params.dataBits (tickSelected x i) :=
  wordsWf_map_range fun _ => wordOf_length _ _

/-! Delay lines and counters -/

theorem length_cons_take {α : Type} (entering : α) {line : List α} {d : ℕ} (h : line.length = d) :
    ((entering :: line).take d).length = d := by
  rw [← h, ← shiftIn_eq_take, shiftIn_length]

theorem forall_mem_cons_take {α : Type} {P : α → Prop} {entering : α} {line : List α} (hin : P entering)
    (hline : ∀ e ∈ line, P e) (d : ℕ) : ∀ e ∈ (entering :: line).take d, P e :=
  fun e he => List.forall_mem_cons.mpr ⟨hin, hline⟩ e (List.mem_of_mem_take he)

/-- A counter stays below its modulus (44_delay_cal.md R183, 43_bitslip.md R165). -/
theorem tickCounter_lt (x : Phy) {m : ℕ} (rst inc : Bool) {v : List ℕ} (hm : 0 < m) (hv : ∀ c ∈ v, c < m)
    (lane : ℕ) : tickCounter x m rst inc v lane < m := by
  unfold tickCounter
  split_ifs
  · exact hm
  · exact Nat.mod_lt _ hm
  · exact getD_lt_of_forall_mem hm hv lane

theorem map_tickCounter_lt (x : Phy) {m : ℕ} (rst inc : Bool) {v : List ℕ} (hm : 0 < m) (hv : ∀ c ∈ v, c < m)
    (n : ℕ) : ∀ c ∈ (List.range n).map (tickCounter x m rst inc v), c < m :=
  List.forall_mem_map.mpr fun lane _ => tickCounter_lt x rst inc hm hv lane

/-! The elements of `X'` that a bit of the control word or the variant decides -/

theorem tickNext_laneSelect (x : Phy) (i : TickInput) : (tickNext x i).laneSelect =
    if bitAt i.ctl 9 = true then selWdata (variantOf x.params) i.ctl else x.laneSelect := rfl

theorem tickNext_outTap (x : Phy) (i : TickInput) : (tickNext x i).outTap =
    if x.params.hasOdelay = true then
      (List.range (lanesOf x.params)).map
        (tickCounter x (2 ^ x.params.tapBits) (bitAt i.ctl 4) (bitAt i.ctl 5) x.outTap)
    else [] := rfl

theorem tickNext_wlevelEn (x : Phy) (i : TickInput) : (tickNext x i).wlevelEn =
    if bitAt i.ctl 7 = true then bitAt i.ctl 8 else x.wlevelEn := rfl

/-- The simultaneous step keeps the invariant, element by element. -/
theorem tickNext_inv {x : Phy} {i : TickInput} (inv : PhyInv x)
    (haccepted : ctlRefusal (variantOf x.params) i.ctl = none) : PhyInv (tickNext x i) where
  legal := inv.legal
  built := inv.built
  laneSelect := by
    rw [tickNext_laneSelect]
    split_ifs
    · exact wordOf_length _ _
    · exact inv.laneSelect
  inTap := (List.length_map _).trans List.length_range
  inTapBound := map_tickCounter_lt x _ _ (Nat.two_pow_pos _) inv.inTapBound _
  outTap := by
    rw [tickNext_outTap, apply_ite List.length, List.length_map, List.length_range]
    rfl
  outTapBound := by
    rw [tickNext_outTap]
    split_ifs
    · exact map_tickCounter_lt x _ _ (Nat.two_pow_pos _) inv.outTapBound _
    · exact nofun
  rot := (List.length_map _).trans List.length_range
  rotBound := by
    have hphases := phases_of_buildSettings inv.built
    exact map_tickCounter_lt x _ _ (by omega) inv.rotBound _
  wlevel := by
    obtain ⟨-, hpresent⟩ := present_of_not_refused haccepted
    rw [tickNext_wlevelEn]
    split_ifs with hwrite
    · exact fun _ => hpresent (.inr (.inl hwrite))
    · exact inv.wlevel
  wrSr := (List.length_map _).trans List.length_range
  rdSr := (List.length_map _).trans List.length_range
  bsPrev := tickGroups_wf inv i
  serPipe := length_cons_take _ inv.serPipe
  serEntries := forall_mem_cons_take (tickDrive_wf inv i) inv.serEntries _
  desPipe := length_cons_take _ inv.desPipe
  desGroups := forall_mem_cons_take (sampledOf_wf _ i) inv.desGroups _
  bsPipe := length_cons_take _ inv.bsPipe
  bsGroups := forall_mem_cons_take (tickSelected_wf x i) inv.bsGroups _

/-- A completed tick keeps the invariant: its block is that of the simultaneous step. -/
theorem runTick_keeps_inv {s t : State} {x : Phy} {i : TickInput} (hx : s.block = .live x) (inv : PhyInv x)
    (h : runTick s i = .next t) : ∃ y, t.block = .live y ∧ PhyInv y := by
  have hy := runTick_block hx inv h
  obtain ⟨haccepted, -⟩ := runTick_calibration hx h hy
  exact ⟨_, hy, tickNext_inv inv haccepted⟩

/-! Construction -/

theorem Inv.of_block {s t : State} (hs : Inv s) (h : t.block = s.block) : Inv t :=
  fun x hx => hs x (h.symm.trans hx)

theorem Inv.of_failed {t : State} {e : ConstructError} (h : t.block = .failed e) : Inv t := by
  intro x hx
  cases h.symm.trans hx

theorem isConstruct_decodeFn (fn : BitVec 2) : IsConstruct (decodeFn fn) := by
  unfold decodeFn IsConstruct
  split_ifs <;> simp

/-- A construction function leaves the block, replaces it by an error, or builds one at power-on. -/
theorem exec_construct_keeps_inv {i : Instr} {s t : State} (hi : IsConstruct i) (hs : Inv s)
    (h : exec i s = .next t) : Inv t := by
  rcases hi with rfl | rfl | rfl | rfl
  · cases hr : resolveOperands s.args.params.clCwlTable s.args.family s.args.clockPeriod with
    | ok r =>
      cases h.symm.trans (exec_resolve_of_ok hr)
      exact hs.of_block rfl
    | error e =>
      cases h.symm.trans (exec_resolve_of_error hr)
      exact .of_failed rfl
  · cases h
    exact hs.of_block rfl
  · cases h
    exact hs.of_block rfl
  · cases hp : paramsLegal s.args.params with
    | true =>
      cases hk : buildSettings s.args.params with
      | ok k =>
        cases h.symm.trans (exec_buildSettings_of_ok rfl hp hk)
        rintro x ⟨⟩
        exact powerOnPhy_inv _ hp hk
      | error e =>
        cases h.symm.trans (exec_buildSettings_of_error rfl hp hk)
        exact .of_failed rfl
    | false =>
      rw [exec, execBuildSettings, hp] at h
      cases h

/-- Settles O40, by cases on the stimulus: a tick (`runTick_keeps_inv`), the idle one included, or a construction
call (`exec_construct_keeps_inv`). -/
theorem everyStepKeepsTheInvariant : Obligations.EveryStepKeepsTheInvariant := by
  intro s t hs h
  have htick {rest : List Stimulus} {i : TickInput} (hrun : runTick (s.withScript rest) i = .next t) :
      Inv t := by
    obtain ⟨x, -, -, hx, -⟩ := runTick_next hrun
    obtain ⟨y, hy, inv⟩ := runTick_keeps_inv (s := s.withScript rest) hx (hs x hx) hrun
    intro z hz
    cases hy.symm.trans hz
    exact inv
  cases hscript : s.script with
  | nil =>
    rw [step_eq_runTick (.inr ⟨hscript, rfl, rfl⟩)] at h
    exact htick h
  | cons stimulus rest =>
    cases stimulus with
    | tick i =>
      rw [step_tick hscript] at h
      exact htick h
    | construct fn args =>
      rw [step_construct hscript] at h
      exact exec_construct_keeps_inv (s := (s.withScript rest).withArgs args) (isConstruct_decodeFn fn) hs h

/-! Totality -/

/-- The idle tick sets no operation bit and reads no register (30_encoding.md R81). -/
theorem accepted_idleInput (x : Phy) (build tick : ℕ) : Accepted x (idleInput x.params build tick) := by
  refine ⟨ctlRefusal_eq_none_iff.mpr ?_, nofun⟩
  simp [idleInput, bitAt_wordOf_false]

/-- Settles O42: an accepted tick completes (`runTick_of_accepted`) and keeps the invariant
(`runTick_keeps_inv`), and the idle tick is an accepted one. -/
theorem tickIsTotalOnAcceptedInputs : Obligations.TickIsTotalOnAcceptedInputs := by
  intro s x hx inv
  have htotal {rest : List Stimulus} {i : TickInput} (hstep : step s = runTick (s.withScript rest) i)
      (haccepted : Accepted x i) : ∃ t y, step s = .next t ∧ t.block = .live y ∧ PhyInv y := by
    obtain ⟨t, -, ht, -⟩ := runTick_of_accepted (s := s.withScript rest) hx haccepted
    obtain ⟨y, hy, hinv⟩ := runTick_keeps_inv (s := s.withScript rest) hx inv ht
    exact ⟨t, y, hstep.trans ht, hy, hinv⟩
  refine ⟨fun i rest hscript haccepted => htotal (step_tick hscript) haccepted, fun hscript => ?_⟩
  have hidle : idleInputOf s = idleInput x.params s.builds s.tick := by rw [idleInputOf, hx]
  refine htotal (step_eq_runTick (.inr ⟨hscript, rfl, rfl⟩)) ?_
  rw [hidle]
  exact accepted_idleInput x _ _

end Sys2Proof.Machine
end

/-! ## After a construction error (60_exceptions.md R210, R216, R217) -/

section
namespace Sys2Proof.Machine

section
variable {s : State} {e : ConstructError}

/-- Every operation of a tick runs on a live block, so on a failed one it has nothing to run on. -/
theorem exec_of_failed {i : Instr} (hi : ¬ IsConstruct i) (hs : s.block = .failed e) :
    exec i s = .fault .noInstance := by
  cases i with
  | resolve | sysLatency | phaseAssign | buildSettings => exact absurd (by simp [IsConstruct]) hi
  | rdlyRst | rdlyInc | bsRst | bsInc | wdlyRst | wdlyInc | wlevelStb | wlevelEn wdata | sel wdata | calNop
  | wren | rden | serCmd | serDq | serDm | serDqs | tristate | serPipe | desDq | rdAssemble | wrTrack | oe
  | oeDqs | dqsPre | dqsPost | rdTrack | rdValid | bsAlign | rdLaneSelect | rdWlevelEn | rdTapBase =>
    exact onLive_failed hs _

theorem runTick_of_failed (hs : s.block = .failed e) (i : TickInput) :
    runTick s i = .fault .noInstance :=
  onLive_failed hs _

/-- A tick of the script and the idle tick fault alike. -/
theorem step_of_failed (hs : s.block = .failed e) {i : TickInput} {rest : List Stimulus}
    (h : s.script = .tick i :: rest ∨ (s.script = [] ∧ rest = [] ∧ i = idleInputOf s)) :
    step s = .fault .noInstance :=
  (step_eq_runTick h).trans (runTick_of_failed (s := s.withScript rest) hs i)

end

/-- A call of `BUILD_SETTINGS` that succeeds starts a block at power-on, whatever stood before. -/
theorem step_buildSettings_of_ok {s : State} {args : ConstructArgs} {k : PhySettings} {rest : List Stimulus}
    (h : s.script = .construct 3#2 args :: rest) (hp : paramsLegal args.params = true)
    (hk : buildSettings args.params = .ok k) :
    step s = .next (startInstance ((s.withScript rest).withArgs args) args.params k) :=
  (step_construct h).trans (exec_buildSettings_of_ok (s := (s.withScript rest).withArgs args) rfl hp hk)

/-- Settles O8: without a live block no operation and no tick runs, and a construction does not look at the block
that stood before. -/
theorem noTickRunsAfterConstructionError : Obligations.NoTickRunsAfterConstructionError := by
  intro s e hs
  refine ⟨fun i hi => exec_of_failed hi hs, fun i rest h => step_of_failed hs (.inl h),
    fun h => step_of_failed hs (.inr ⟨h, rfl, rfl⟩), fun args k rest h hp hk => ?_⟩
  exact ⟨_, step_buildSettings_of_ok h hp hk, startInstance_script _ _ _, startInstance_block _ _ _⟩

end Sys2Proof.Machine
end

/-! ## The preconditions of construction (60_exceptions.md R214, 40_construction.md R100, R110) -/

section
namespace Sys2Proof.Machine

theorem exec_buildSettings_of_illegal {s : State} (h : paramsLegal s.args.params = false) :
    exec .buildSettings s = .refused .illFormedParameters := by
  simp [exec, execBuildSettings, h]

theorem patternWidthOk_iff {p : Params} {v : Option Bits} :
    patternWidthOk p v = true ↔ ∀ w, v = some w → w.length = 2 * p.phases := by
  cases v with
  | none => simp [patternWidthOk]
  | some w => simp [patternWidthOk]

/-- All of the preconditions of construction, in the order of the model's check. -/
theorem paramsLegal_iff {p : Params} : paramsLegal p = true ↔
    0 < p.dataBits ∧ p.dataBits % 8 = 0 ∧ 0 < p.addrBits ∧ 0 < p.bankBits ∧ 0 < p.nRanks ∧
      ratioPositive p.fSys = true ∧ ratioPositive p.fIoRef = true ∧ p.tapBase < 2 ^ p.tapBits ∧
      1 ≤ p.bitslipDepth ∧ (∀ w, p.dqsPattern = some w → w.length = 2 * p.phases) ∧
      (∀ w, p.wlevelPattern = some w → w.length = 2 * p.phases) ∧ tableLegal p.clCwlTable = true := by
  simp only [paramsLegal, Bool.and_eq_true, decide_eq_true_eq, beq_iff_eq, patternWidthOk_iff, and_assoc]

/-- Each precondition that is broken makes the parameters illegal. -/
theorem paramsLegal_eq_false_iff {p : Params} : paramsLegal p = false ↔
    p.dataBits = 0 ∨ p.dataBits % 8 ≠ 0 ∨ p.addrBits = 0 ∨ p.bankBits = 0 ∨ p.nRanks = 0 ∨
      ratioPositive p.fSys = false ∨ ratioPositive p.fIoRef = false ∨ 2 ^ p.tapBits ≤ p.tapBase ∨
      p.bitslipDepth < 1 ∨ (∃ w, p.dqsPattern = some w ∧ w.length ≠ 2 * p.phases) ∨
      (∃ w, p.wlevelPattern = some w ∧ w.length ≠ 2 * p.phases) ∨ tableLegal p.clCwlTable = false := by
  simp only [← Bool.not_eq_true, paramsLegal_iff, not_and_or, not_forall, exists_prop, Nat.pos_iff_ne_zero,
    ne_eq, not_not, not_lt, not_le]

/-- The model's integer test for the attested row is R110's over exact rationals. -/
theorem isAttestedBin_iff_ratioValue {b : SpeedBin} (hb : ratioPositive b.f = true) :
    isAttestedBin b = true ↔ ratioValue b.f = 800000000 ∧ b.cl = 6 ∧ b.cwl = 5 := by
  obtain ⟨-, hden⟩ := ratioPositive_iff.mp hb
  have hden' : (b.f.den : ℚ) ≠ 0 := by exact_mod_cast hden.ne'
  rw [isAttestedBin_iff, ratioValue, div_eq_iff hden']
  exact and_congr_left' (by exact_mod_cast Iff.rfl)

/-- What a legal table guarantees: ascending lists only, and the attested row among the bins of DDR3. -/
theorem tableLegal_inv {table : List (Family × List SpeedBin)} (h : tableLegal table = true) :
    (∀ e ∈ table, binsAscending e.2 = true) ∧
      ∃ bins, binsOf table .ddr3 = some bins ∧
        ∃ b ∈ bins, ratioValue b.f = 800000000 ∧ b.cl = 6 ∧ b.cwl = 5 := by
  obtain ⟨hascending, hrow⟩ := Bool.and_eq_true_iff.mp h
  refine ⟨List.all_eq_true.mp hascending, ?_⟩
  cases hbins : binsOf table .ddr3 with
  | none => simp [holdsAttestedRow, hbins] at hrow
  | some bins =>
    obtain ⟨b, hb, hattested⟩ : ∃ b ∈ bins, isAttestedBin b = true := by
      simpa [holdsAttestedRow, hbins] using hrow
    have hpos := ratioPositive_of_tableLegal h hbins b hb
    exact ⟨bins, rfl, b, hb, (isAttestedBin_iff_ratioValue hpos).mp hattested⟩

/-- Settles O9: a broken precondition fails the check that construction begins with; a list out of order or a
missing attested row contradicts what a legal table guarantees. -/
theorem illFormedParametersAreRefused : Obligations.IllFormedParametersAreRefused := by
  refine fun s => ⟨fun hbroken => exec_buildSettings_of_illegal (paramsLegal_eq_false_iff.mpr hbroken),
    fun htable => eq_false_of_ne_true fun hlegal => ?_⟩
  obtain ⟨hascending, bins, hbins, b, hb, hrow⟩ := tableLegal_inv hlegal
  rcases htable with ⟨e, he, hdisordered⟩ | hmissing
  · rw [hascending e he] at hdisordered
    cases hdisordered
  · exact hmissing bins hbins b hb hrow

end Sys2Proof.Machine
end

/-! ## The power-on state of a new instance (70_reset_and_hazards.md R230, R231) -/

section
namespace Sys2Proof.Machine

/-- The output delay taps are zero too, on every lane, where the instance has output delay lines. -/
theorem powerOnPhy_outTap_of_hasOdelay {build : ℕ} {p : Params} {k : PhySettings} (h : p.hasOdelay = true) :
    (powerOnPhy build p k).outTap = List.replicate (lanesOf p) 0 := by
  simp [powerOnPhy, h]

/-- No entry on its way to the pads drives a data or a strobe pin. -/
theorem powerOnPhy_serPipe_en {build : ℕ} {p : Params} {k : PhySettings} {e : SerEntry}
    (he : e ∈ (powerOnPhy build p k).serPipe) :
    (∀ q ∈ e.dq, q.en = false) ∧ ∀ q ∈ e.dqs, q.en = false := by
  obtain ⟨entry, -, rfl⟩ := List.mem_map.mp he
  exact ⟨fun q hq => powerOnPins_en hq, fun q hq => powerOnPins_en hq⟩

/-- Settles O10: a successful construction starts an instance at power-on (`exec_buildSettings_of_ok`), in which
the registers with a power-on value hold it by definition; the taps of an optional delay line, the enables in the
serializer delay line and the lengths are `powerOnPhy_outTap_of_hasOdelay`, `powerOnPhy_serPipe_en` and
`powerOnPhy_inv`. -/
theorem newInstanceIsInPowerOnState : Obligations.NewInstanceIsInPowerOnState := by
  intro s k hlegal hbuilt
  refine ⟨powerOnPhy (s.builds + 1) s.args.params k, startInstance s s.args.params k,
    exec_buildSettings_of_ok rfl hlegal hbuilt, startInstance_block _ _ _, startInstance_tick _ _ _, ?_⟩
  have hinv := powerOnPhy_inv (s.builds + 1) hlegal hbuilt
  exact ⟨rfl, rfl, rfl, rfl, powerOnPhy_outTap_of_hasOdelay, rfl, rfl, rfl, rfl, rfl,
    fun _ => powerOnPhy_serPipe_en, hinv⟩

end Sys2Proof.Machine
end
